-- ==== Sys2Proof/Word.lean ====
section
/-! DEFINITION. The plain value types of the block: bytes, nibbles, the 16-bit codec arguments
(00_scope.md R10, 40_codec.md R140) and bus addresses (20_memory.md R61). -/

namespace Sys2Proof

/-- A byte: 8 bits, bit 7 the most significant (R10). -/
abbrev Byte := BitVec 8

/-- Half a byte: the type selector and the 4-bit fields of byte 0 (R64). -/
abbrev Nibble := BitVec 4

/-- A 16-bit unsigned argument of an encode function (R140). -/
abbrev Half := BitVec 16

/-- A bus address: a number below `2 ^ ADDR_W`. The block only compares two of them for equality and
passes them on (R61), so no arithmetic is defined. The bound is a check (`Instr.wf`), since `ADDR_W`
is an open parameter. DESIGN CHOICE, safe: log entry 2. -/
abbrev Addr := Nat

/-- A value of the type `CTX` (R8), by its number: the open parameter `Params.ctxSize` says how many values
`CTX` has. The block passes a context on and never inspects it (R258). DESIGN CHOICE, safe: log
entry 3. -/
abbrev Ctx := Nat

end Sys2Proof
end

