-- ==== Sys2Proof/Config.lean ====
section
/-! DEFINITION. What an implementation fixes (00_scope.md R8) and the free values of the model. -/

namespace Sys2Proof

/-- The open parameters of the block (R8). They are arguments of the model: the state carries them,
no step changes them, and a statement about every state holds for every choice of them. -/
structure Params where
  /-- `MAX_MSG`: capacity of a Message payload and largest First-frame length accepted. -/
  maxMsg : Nat
  /-- `ADDR_W`: width in bits of an address. -/
  addrW : Nat
  /-- `FC_MIN_LEN`: smallest `dlen` TX_FC accepts. -/
  fcMinLen : Nat
  /-- `CTX`, the type of a context, given by its number of values: `some n` is a type of n values, `none`
  one with a value for every natural number. The block never inspects a context, so nothing but its
  being one of these values matters (R258; log entry 3). -/
  ctxSize : Option Nat
  deriving DecidableEq, Repr

/-- The ranges R8 gives the open parameters; a type of contexts has at least one value. -/
def Params.wf (p : Params) : Bool :=
  decide (8 ≤ p.maxMsg) && decide (p.maxMsg ≤ 65535) && decide (1 ≤ p.addrW)
    && decide (2 ≤ p.fcMinLen) && decide (p.fcMinLen ≤ 8) && decide (p.ctxSize ≠ some 0)

/-- The context is a value of the type `CTX` (R8, R21). -/
def Params.ctxOk (p : Params) (c : Ctx) : Bool :=
  match p.ctxSize with
  | none => true
  | some n => decide (c < n)

/-- The values R8 recommends; for `CTX` it recommends none, and any number is a context here. DESIGN
CHOICE: log entry 1. -/
def Params.recommended : Params := { maxMsg := 4095, addrW := 32, fcMinLen := 3, ctxSize := none }

/-- `FRAME_CAP`: capacity in bytes of one physical frame (R8). -/
def Config.frameCap : Nat := 8

/-- `SF_MAX`: largest payload of a Single frame (R8). -/
def Config.sfMax : Nat := 7

/-- `FF_DATA`: payload bytes of a First frame (R8). -/
def Config.ffData : Nat := 6

/-- `CF_DATA`: largest payload of a Consecutive frame (R8). -/
def Config.cfData : Nat := 7

/-- `LEN_W`: width in bits of every length, offset and count register (R8). -/
abbrev Config.lenW : Nat := 16

/-- The value of a length, offset or count register: an unsigned number of `LEN_W` bits (R8, D33). -/
abbrev Len := BitVec Config.lenW

/-- `FF_DL_MAX`: largest value of the 12-bit total-length field (R8). -/
def Config.ffDlMax : Nat := 4095

/-- The environment's answer to the n-th `Xmit` or `Alloc` call once no answer is listed in the state:
a free value (R252, R253). Log entry 8. -/
opaque Config.freeAnswer : Nat → Bool

/-- The content of byte `i` of the buffer that the `n`-th call allocated, before anything is written to
it: a free value (20_memory.md R70, U11). Log entry 6. -/
opaque Config.freshByte : (n i : Nat) → Byte

end Sys2Proof
end

