-- ==== Sys2Proof/Syntax.lean ====
section
/-! DEFINITION. The instructions of the block, one constructor per row of spec/opcode_table.json, and
what the host puts on the port: raw packets, configuration writes and reset. -/

namespace Sys2Proof

/-- `FRAME`: the 8 bytes `F[0] .. F[7]` of one physical frame (20_memory.md R60). -/
structure FrameBytes where
  b0 : Byte
  b1 : Byte
  b2 : Byte
  b3 : Byte
  b4 : Byte
  b5 : Byte
  b6 : Byte
  b7 : Byte
  deriving DecidableEq, Repr

/-- A frame presented to the block: its 8 bytes, of which the first `dlen` are valid. The type of
`dlen` is the range 0..8 (R69, D30). -/
structure Frame where
  bytes : FrameBytes
  dlen : Fin 9
  deriving DecidableEq, Repr

/-- Frame bytes `F[1] .. F[7]`: what follows the header byte of SF, CF and unrecognized frames. -/
structure Tail1 where
  b1 : Byte
  b2 : Byte
  b3 : Byte
  b4 : Byte
  b5 : Byte
  b6 : Byte
  b7 : Byte
  deriving DecidableEq, Repr

/-- Frame bytes `F[2] .. F[7]`: the payload of a First frame (R93). -/
structure Tail2 where
  b2 : Byte
  b3 : Byte
  b4 : Byte
  b5 : Byte
  b6 : Byte
  b7 : Byte
  deriving DecidableEq, Repr

/-- Frame bytes `F[3] .. F[7]`: what follows the fields of a flow-control frame (R95). -/
structure Tail3 where
  b3 : Byte
  b4 : Byte
  b5 : Byte
  b6 : Byte
  b7 : Byte
  deriving DecidableEq, Repr

/-- One instruction. INDEX.md: an instruction is a wire frame format, a host command or a codec
function. A frame instruction is the delivery of a frame of that format, with the address it came
from and its `dlen`, to the session that consumes it (30_encoding.md R91; log entry 13). -/
inductive Instr where
  /-- SF (R92, R174): `dl` is SF_DL. -/
  | sf (addr : Addr) (dl : Nibble) (tail : Tail1) (dlen : Fin 9)
  /-- FF (R93, R175): `total` is FF_DL. -/
  | ff (addr : Addr) (total : BitVec 12) (tail : Tail2) (dlen : Fin 9)
  /-- CF (R94, R176): `sn` is SN. -/
  | cf (addr : Addr) (sn : Nibble) (tail : Tail1) (dlen : Fin 9)
  /-- FC.CTS (R95, R214): status 0. -/
  | fcCts (addr : Addr) (bs st : Byte) (tail : Tail3) (dlen : Fin 9)
  /-- FC.WAIT (R215): status 1. -/
  | fcWait (addr : Addr) (bs st : Byte) (tail : Tail3) (dlen : Fin 9)
  /-- FC.OVFLW (R216): status 2. -/
  | fcOvflw (addr : Addr) (bs st : Byte) (tail : Tail3) (dlen : Fin 9)
  /-- FC.RSVD3 (R217): status 3. -/
  | fcRsvd3 (addr : Addr) (bs st : Byte) (tail : Tail3) (dlen : Fin 9)
  /-- FC.RSVD4_7 (R217): status 4..7, `ss` its low two bits. -/
  | fcRsvd4to7 (addr : Addr) (ss : BitVec 2) (bs st : Byte) (tail : Tail3) (dlen : Fin 9)
  /-- FC.RSVD8_15 (R217): status 8..15, `ss` its low three bits. -/
  | fcRsvd8to15 (addr : Addr) (ss : BitVec 3) (bs st : Byte) (tail : Tail3) (dlen : Fin 9)
  /-- RSVD.TYPE4_7 (R177): type 4..7, `tt` its low two bits. -/
  | rsvdType4to7 (addr : Addr) (tt : BitVec 2) (low : Nibble) (tail : Tail1) (dlen : Fin 9)
  /-- RSVD.TYPE8_15 (R177): type 8..15, `tt` its low three bits. -/
  | rsvdType8to15 (addr : Addr) (tt : BitVec 3) (low : Nibble) (tail : Tail1) (dlen : Fin 9)
  /-- RX_OPEN (R170). -/
  | rxOpen (source reply : Addr)
  /-- RX_FRAME (R171). -/
  | rxFrame (addr : Addr) (f : Frame)
  /-- TX_BEGIN (R212): the bytes of `payload` at or beyond `length` are not used (R40). -/
  | txBegin (addr : Addr) (payload : List Byte) (length : Nat)
  /-- TX_FC (R213). -/
  | txFc (addr : Addr) (f : Frame)
  /-- TX_CONTINUE (R219). -/
  | txContinue
  /-- DEC_TYPE (R133). -/
  | decType (f : Frame)
  /-- DEC_SF_DL (R134). -/
  | decSfDl (f : Frame)
  /-- DEC_FF_DL (R135). -/
  | decFfDl (f : Frame)
  /-- DEC_CF_SN (R136). -/
  | decCfSn (f : Frame)
  /-- DEC_FC_FS (R137). -/
  | decFcFs (f : Frame)
  /-- DEC_FC_BS (R138). -/
  | decFcBs (f : Frame)
  /-- DEC_FC_ST (R139). -/
  | decFcSt (f : Frame)
  /-- ENC_SF (R141). -/
  | encSf (dl : Half)
  /-- ENC_FF (R142). -/
  | encFf (total : Half)
  /-- ENC_CF (R143). -/
  | encCf (sn : Half)
  /-- ENC_FC (R144). -/
  | encFc (fs bs st : Half)
  deriving DecidableEq, Repr

/-- What a packet on the port asks for, before decoding. -/
inductive Select where
  /-- A host command, by its 3-bit select code (30_encoding.md R107). -/
  | command (code : BitVec 3)
  /-- A frame delivered as such: its own bytes are the code (R106). -/
  | frame
  /-- A codec function. The spec gives it no opcode; the number is the model's (log entry 12). -/
  | codec (fn : Nibble)
  deriving DecidableEq, Repr

/-- One raw packet on the port: the select line and the operand lines. The spec gives the operands of
each command (R107) and no layout for them; one line each is the model's choice (log entry 11). A
packet uses the lines its instruction has and leaves the others at zero. -/
structure Packet where
  sel : Select
  /-- `address`, or `source_address` of RX_OPEN. -/
  addr : Addr
  /-- `reply_address` of RX_OPEN. -/
  reply : Addr
  /-- The frame's 8 bytes, or the payload of TX_BEGIN. -/
  data : List Byte
  /-- `dlen` of a frame, or `length` of TX_BEGIN. -/
  len : Nat
  /-- The 16-bit arguments of the encode functions. -/
  arg0 : Half
  arg1 : Half
  arg2 : Half
  deriving DecidableEq, Repr

/-- Why the decoder rejects a packet. Each stands for something the spec says cannot be presented. -/
inductive DecodeError where
  /-- Select codes 0b101 to 0b111: "not a command; cannot be issued" (R107, U17). -/
  | noSuchCommand
  /-- A codec function number above 10: no such function (log entry 12). -/
  | noSuchFunction
  /-- The data line of a frame does not hold exactly 8 bytes (R107: `data` is 8 bytes). -/
  | frameNotEightBytes
  /-- `dlen` above 8: "a longer frame cannot be presented" (R69, U16). -/
  | dlenOutOfRange
  deriving DecidableEq, Repr

/-- One request of the host: what it may do between commands. -/
inductive Request where
  /-- Present a packet on the port. -/
  | packet (p : Packet)
  /-- Write `cfg.pad` (R21, R322). -/
  | writePad (b : Bool)
  /-- Write `cfg.log_en` (R21, R322). -/
  | writeLogEn (b : Bool)
  /-- Write `cfg.context` (R21, R322). -/
  | writeContext (c : Ctx)
  /-- Hardware reset (70_reset_and_hazards.md R310). -/
  | reset
  deriving DecidableEq, Repr

end Sys2Proof
end

