-- ==== Sys2Proof/WellFormed.lean ====
section
/-! DEFINITION. When an instruction can be presented: its operands lie in the ranges R107 gives them. -/

namespace Sys2Proof

/-- An address fits the `ADDR_W` bits of a port (R8, R107). -/
def Params.addrOk (p : Params) (a : Addr) : Bool := decide (a < 2 ^ p.addrW)

/-- A frame delivered as a frame has a byte 0, else it has no format (R90). -/
def frameLenOk (dlen : Fin 9) : Bool := decide (1 ≤ dlen.val)

/-- TX_BEGIN: `payload` is at most `MAX_MSG` bytes and holds `length` of them (R40, R212, U18). -/
def Params.payloadOk (p : Params) (payload : List Byte) (length : Nat) : Bool :=
  decide (length ≤ payload.length) && decide (payload.length ≤ p.maxMsg)

/-- An instruction can be presented to a block with parameters `p`. -/
def Instr.wf (p : Params) (i : Instr) : Bool :=
  match i with
  | .sf a _ _ n => p.addrOk a && frameLenOk n
  | .ff a _ _ n => p.addrOk a && frameLenOk n
  | .cf a _ _ n => p.addrOk a && frameLenOk n
  | .fcCts a _ _ _ n => p.addrOk a && frameLenOk n
  | .fcWait a _ _ _ n => p.addrOk a && frameLenOk n
  | .fcOvflw a _ _ _ n => p.addrOk a && frameLenOk n
  | .fcRsvd3 a _ _ _ n => p.addrOk a && frameLenOk n
  | .fcRsvd4to7 a _ _ _ _ n => p.addrOk a && frameLenOk n
  | .fcRsvd8to15 a _ _ _ _ n => p.addrOk a && frameLenOk n
  | .rsvdType4to7 a _ _ _ n => p.addrOk a && frameLenOk n
  | .rsvdType8to15 a _ _ _ n => p.addrOk a && frameLenOk n
  | .rxOpen a b => p.addrOk a && p.addrOk b
  | .rxFrame a _ => p.addrOk a
  | .txBegin a d n => p.addrOk a && p.payloadOk d n
  | .txFc a _ => p.addrOk a
  | .txContinue => true
  | .decType _ => true
  | .decSfDl _ => true
  | .decFfDl _ => true
  | .decCfSn _ => true
  | .decFcFs _ => true
  | .decFcBs _ => true
  | .decFcSt _ => true
  | .encSf _ => true
  | .encFf _ => true
  | .encCf _ => true
  | .encFc _ _ _ => true

end Sys2Proof
end

