-- ==== Sys2Proof/Decode.lean ====
section
/-! DEFINITION. The decoder, total on any packet and any frame bytes, and the encoder, both written from
30_encoding.md R91 to R107. -/

namespace Sys2Proof

/-! ### Bits -/

/-- The high nibble `v[7:4]` of a byte (R10). -/
def hiNibble (b : Byte) : Nibble := b.extractLsb' 4 4

/-- The low nibble `v[3:0]` of a byte (R10). -/
def loNibble (b : Byte) : Nibble := b.extractLsb' 0 4

/-- `hi ++ lo`: a byte from its nibbles, the first the more significant (R10, R64). -/
def joinNibbles (hi lo : Nibble) : Byte := hi ++ lo

/-- FF_DL from the low nibble of byte 0 and byte 1, the nibble the more significant (R65, R99). -/
def joinFfDl (hi : Nibble) (lo : Byte) : BitVec 12 := hi ++ lo

/-- FF_DL[11:8] (R93). -/
def ffDlHigh (total : BitVec 12) : Nibble := total.extractLsb' 8 4

/-- FF_DL[7:0] (R93). -/
def ffDlLow (total : BitVec 12) : Byte := total.extractLsb' 0 8

/-- The flow status of FC.RSVD4_7 and the type of RSVD.TYPE4_7: `01` over two bits (R106). -/
def nibble4to7 (x : BitVec 2) : Nibble := 0b01#2 ++ x

/-- The flow status of FC.RSVD8_15 and the type of RSVD.TYPE8_15: `1` over three bits (R106). -/
def nibble8to15 (x : BitVec 3) : Nibble := 0b1#1 ++ x

/-! ### Frames from their fields (R92 to R95) -/

/-- A frame whose byte 0 is given nibble by nibble, followed by `F[1..7]`. -/
def frameWithTail1 (ty low : Nibble) (t : Tail1) (dlen : Fin 9) : Frame :=
  { bytes := { b0 := joinNibbles ty low, b1 := t.b1, b2 := t.b2, b3 := t.b3, b4 := t.b4, b5 := t.b5,
               b6 := t.b6, b7 := t.b7 }
    dlen := dlen }

/-- Single frame (R92). -/
def frameSf (dl : Nibble) (t : Tail1) (dlen : Fin 9) : Frame := frameWithTail1 0 dl t dlen

/-- First frame (R93). -/
def frameFf (total : BitVec 12) (t : Tail2) (dlen : Fin 9) : Frame :=
  { bytes := { b0 := joinNibbles 1 (ffDlHigh total), b1 := ffDlLow total, b2 := t.b2, b3 := t.b3,
               b4 := t.b4, b5 := t.b5, b6 := t.b6, b7 := t.b7 }
    dlen := dlen }

/-- Consecutive frame (R94). -/
def frameCf (sn : Nibble) (t : Tail1) (dlen : Fin 9) : Frame := frameWithTail1 2 sn t dlen

/-- Flow-control frame (R95). -/
def frameFc (fs : Nibble) (bs st : Byte) (t : Tail3) (dlen : Fin 9) : Frame :=
  { bytes := { b0 := joinNibbles 3 fs, b1 := bs, b2 := st, b3 := t.b3, b4 := t.b4, b5 := t.b5,
               b6 := t.b6, b7 := t.b7 }
    dlen := dlen }

/-! ### Decoding a frame (R91, R100, R101, R106) -/

/-- `F[1..7]` of a frame. -/
def FrameBytes.tail1 (F : FrameBytes) : Tail1 :=
  { b1 := F.b1, b2 := F.b2, b3 := F.b3, b4 := F.b4, b5 := F.b5, b6 := F.b6, b7 := F.b7 }

/-- `F[2..7]` of a frame. -/
def FrameBytes.tail2 (F : FrameBytes) : Tail2 :=
  { b2 := F.b2, b3 := F.b3, b4 := F.b4, b5 := F.b5, b6 := F.b6, b7 := F.b7 }

/-- `F[3..7]` of a frame. -/
def FrameBytes.tail3 (F : FrameBytes) : Tail3 :=
  { b3 := F.b3, b4 := F.b4, b5 := F.b5, b6 := F.b6, b7 := F.b7 }

/-- A type-3 frame, by its status nibble (R96, R106). -/
def decodeFlow (addr : Addr) (f : Frame) : Instr :=
  let F := f.bytes
  let fs := loNibble F.b0
  match fs.toNat with
  | 0 => .fcCts addr F.b1 F.b2 F.tail3 f.dlen
  | 1 => .fcWait addr F.b1 F.b2 F.tail3 f.dlen
  | 2 => .fcOvflw addr F.b1 F.b2 F.tail3 f.dlen
  | 3 => .fcRsvd3 addr F.b1 F.b2 F.tail3 f.dlen
  | n => if n < 8 then .fcRsvd4to7 addr (fs.extractLsb' 0 2) F.b1 F.b2 F.tail3 f.dlen
         else .fcRsvd8to15 addr (fs.extractLsb' 0 3) F.b1 F.b2 F.tail3 f.dlen

/-- A delivered frame, by its type nibble (R91, R106). A frame with `dlen = 0` has no byte 0 and no
format (R90); it goes to RX_FRAME, which ignores it (R171). DESIGN CHOICE, safe: log entry 15. -/
def decodeFrame (addr : Addr) (f : Frame) : Instr :=
  let F := f.bytes
  let ty := hiNibble F.b0
  let low := loNibble F.b0
  if f.dlen.val = 0 then .rxFrame addr f
  else match ty.toNat with
  | 0 => .sf addr low F.tail1 f.dlen
  | 1 => .ff addr (joinFfDl low F.b1) F.tail2 f.dlen
  | 2 => .cf addr low F.tail1 f.dlen
  | 3 => decodeFlow addr f
  | n => if n < 8 then .rsvdType4to7 addr (ty.extractLsb' 0 2) low F.tail1 f.dlen
         else .rsvdType8to15 addr (ty.extractLsb' 0 3) low F.tail1 f.dlen

/-! ### Decoding a packet (R107) -/

/-- The 8 bytes of a frame as a list, `F[0]` first. -/
def FrameBytes.toList (F : FrameBytes) : List Byte := [F.b0, F.b1, F.b2, F.b3, F.b4, F.b5, F.b6, F.b7]

/-- The frame on the data and length lines: exactly 8 bytes, `dlen` 0..8 (R69, R107). -/
def frameOfLines (data : List Byte) (len : Nat) : Except DecodeError Frame :=
  match data with
  | [b0, b1, b2, b3, b4, b5, b6, b7] =>
    if h : len < 9 then .ok { bytes := ⟨b0, b1, b2, b3, b4, b5, b6, b7⟩, dlen := ⟨len, h⟩ }
    else .error .dlenOutOfRange
  | _ => .error .frameNotEightBytes

/-- The frame of a packet given to a constructor that takes one. -/
def withFrame (p : Packet) (k : Frame → Instr) : Except DecodeError Instr :=
  match frameOfLines p.data p.len with
  | .ok f => .ok (k f)
  | .error e => .error e

/-- The decoder. It reads only the lines the selected instruction has, and rejects by name. -/
def decode (p : Packet) : Except DecodeError Instr :=
  match p.sel with
  | .command code =>
    match code.toNat with
    | 0 => .ok (.rxOpen p.addr p.reply)
    | 1 => withFrame p (.rxFrame p.addr)
    | 2 => .ok (.txBegin p.addr p.data p.len)
    | 3 => withFrame p (.txFc p.addr)
    | 4 => .ok .txContinue
    | _ => .error .noSuchCommand
  | .frame => withFrame p (decodeFrame p.addr)
  | .codec fn =>
    match fn.toNat with
    | 0 => withFrame p .decType
    | 1 => withFrame p .decSfDl
    | 2 => withFrame p .decFfDl
    | 3 => withFrame p .decCfSn
    | 4 => withFrame p .decFcFs
    | 5 => withFrame p .decFcBs
    | 6 => withFrame p .decFcSt
    | 7 => .ok (.encSf p.arg0)
    | 8 => .ok (.encFf p.arg0)
    | 9 => .ok (.encCf p.arg0)
    | 10 => .ok (.encFc p.arg0 p.arg1 p.arg2)
    | _ => .error .noSuchFunction

/-! ### Encoding -/

/-- A packet with every operand line at zero. -/
def blankPacket (sel : Select) : Packet :=
  { sel := sel, addr := 0, reply := 0, data := [], len := 0, arg0 := 0, arg1 := 0, arg2 := 0 }

/-- A packet that carries a frame. -/
def framePacket (sel : Select) (addr : Addr) (f : Frame) : Packet :=
  { blankPacket sel with addr := addr, data := f.bytes.toList, len := f.dlen.val }

/-- The packet of an instruction. -/
def encode (i : Instr) : Packet :=
  match i with
  | .sf a dl t n => framePacket .frame a (frameSf dl t n)
  | .ff a total t n => framePacket .frame a (frameFf total t n)
  | .cf a sn t n => framePacket .frame a (frameCf sn t n)
  | .fcCts a bs st t n => framePacket .frame a (frameFc 0 bs st t n)
  | .fcWait a bs st t n => framePacket .frame a (frameFc 1 bs st t n)
  | .fcOvflw a bs st t n => framePacket .frame a (frameFc 2 bs st t n)
  | .fcRsvd3 a bs st t n => framePacket .frame a (frameFc 3 bs st t n)
  | .fcRsvd4to7 a ss bs st t n => framePacket .frame a (frameFc (nibble4to7 ss) bs st t n)
  | .fcRsvd8to15 a ss bs st t n => framePacket .frame a (frameFc (nibble8to15 ss) bs st t n)
  | .rsvdType4to7 a tt low t n => framePacket .frame a (frameWithTail1 (nibble4to7 tt) low t n)
  | .rsvdType8to15 a tt low t n => framePacket .frame a (frameWithTail1 (nibble8to15 tt) low t n)
  | .rxOpen a r => { blankPacket (.command 0) with addr := a, reply := r }
  | .rxFrame a f => framePacket (.command 1) a f
  | .txBegin a d n => { blankPacket (.command 2) with addr := a, data := d, len := n }
  | .txFc a f => framePacket (.command 3) a f
  | .txContinue => blankPacket (.command 4)
  | .decType f => framePacket (.codec 0) 0 f
  | .decSfDl f => framePacket (.codec 1) 0 f
  | .decFfDl f => framePacket (.codec 2) 0 f
  | .decCfSn f => framePacket (.codec 3) 0 f
  | .decFcFs f => framePacket (.codec 4) 0 f
  | .decFcBs f => framePacket (.codec 5) 0 f
  | .decFcSt f => framePacket (.codec 6) 0 f
  | .encSf dl => { blankPacket (.codec 7) with arg0 := dl }
  | .encFf total => { blankPacket (.codec 8) with arg0 := total }
  | .encCf sn => { blankPacket (.codec 9) with arg0 := sn }
  | .encFc fs bs st => { blankPacket (.codec 10) with arg0 := fs, arg1 := bs, arg2 := st }

/-! ### Words of the opcode table (R106) -/

/-- Byte `i` of the `k`-byte word `w`, the first byte the most significant (R106); 0 beyond the word. -/
def wordByte (k w i : Nat) : Byte := if i < k then BitVec.ofNat 8 (w / 2 ^ (8 * (k - 1 - i))) else 0

/-- The packet that carries a word of spec/opcode_table.json. A word of at most 8 bits is a command's
3-bit select code with every operand zero; a longer word is a delivered frame whose valid bytes are
the word's, `F[0]` first (R106), from address 0. Log entry 14. -/
def packetOfWord (nbits w : Nat) : Packet :=
  if nbits ≤ 8 then
    -- a word above 7 fits no select line: it takes code 7, which cannot be issued (U17)
    { blankPacket (.command (if w < 8 then BitVec.ofNat 3 w else 7)) with
      data := if w = 1 ∨ w = 3 then [0, 0, 0, 0, 0, 0, 0, 0] else [] }
  else
    let k := (nbits + 7) / 8
    let b := wordByte k w
    { blankPacket .frame with data := [b 0, b 1, b 2, b 3, b 4, b 5, b 6, b 7], len := k }

/-- The instruction the decoder reads from a word of the opcode table, numbered as the table numbers
its bits. -/
def decodeTableWord (nbits w : Nat) : Option Instr :=
  match decode (packetOfWord nbits w) with
  | .ok i => some i
  | .error _ => none

end Sys2Proof
end

