-- ==== Sys2Proof/Machine/State.lean ====
section
/-! DEFINITION. The state of the block (10_state.md), as plain data, and its value at reset (R50). -/

namespace Sys2Proof.Machine

/-- A byte store of `MAX_MSG` bytes (20_memory.md R60): address and byte pairs. Canonical form
(`Memory.wf`): addresses strictly rising and no pair that holds 0x00, since an unlisted address reads
as 0x00. That is the spec's value for the payload of a Message (R40, D20); for `TXMSG` it is a
DESIGN CHOICE, unsafe: log entry 5. -/
abbrev Memory := List Host.Cell

/-- The empty store: every byte reads 0x00. -/
def Memory.empty : Memory := []

/-- A Message (R40). Its payload is a store of `MAX_MSG` bytes, 0x00 at and beyond `length` in every
Message the block produces. -/
structure Message where
  address : Addr
  payload : Memory
  length : Len
  isMultiFrame : Bool
  isComplete : Bool
  deriving DecidableEq, Repr

/-- The values of `rx.state` (R23). -/
inductive RxState where
  | closed
  | awaitFf
  | reassembling
  | complete
  | failed
  deriving DecidableEq, Repr

/-- The values of `tx.state` (R31). -/
inductive TxState where
  | idle
  | active
  | complete
  | failed
  deriving DecidableEq, Repr

/-- `tx.to_send` (R38): `UNLIMITED` or `Count n` with n in 0..255. -/
inductive ToSend where
  | unlimited
  | count (n : BitVec 8)
  deriving DecidableEq, Repr

/-- The configuration registers (R21). -/
structure Cfg where
  /-- `cfg.pad`. -/
  pad : Bool
  /-- `cfg.log_en`. -/
  logEn : Bool
  /-- `cfg.context`. -/
  context : Ctx
  deriving DecidableEq, Repr

/-- The Receive Session registers (R22). -/
structure RxSession where
  /-- `rx.state`. -/
  state : RxState
  /-- `rx.src_addr`. -/
  srcAddr : Addr
  /-- `rx.reply_addr`. -/
  replyAddr : Addr
  /-- `rx.expected`. -/
  expected : Len
  /-- `rx.received`. -/
  received : Len
  /-- `RXBUF`, an owned optional byte list as R71 allows: present exactly when `rx.buf_live = 1`; a
  live buffer has the bytes at indices below its length and no others (R60, R70; log entry 7). -/
  buf : Option (List Byte)
  /-- `RXMSG`. -/
  msg : Message
  deriving DecidableEq, Repr

/-- The Send Session registers (R30). -/
structure TxSession where
  /-- `tx.state`. -/
  state : TxState
  /-- `tx.addr`. -/
  addr : Addr
  /-- `tx.len`. -/
  len : Len
  /-- `TXMSG`. -/
  msg : Memory
  /-- `tx.offset`. -/
  offset : Len
  /-- `tx.seq`. -/
  seq : BitVec 4
  /-- `tx.to_send`. -/
  toSend : ToSend
  deriving DecidableEq, Repr

/-- The 16 outcomes of a command, in the order of their codes 0 to 15 (60_exceptions.md R271). -/
inductive OutcomeName where
  | ok
  | rxIgnClosed
  | rxIgnEmpty
  | rxIgnAddr
  | rxIgnType
  | rxIgnState
  | rxIgnMalformed
  | rxRejTooLong
  | rxRejAlloc
  | rxFailReassembly
  | txErrEncode
  | txErrXmit
  | txFcIgnState
  | txFcRejFormat
  | txFcRejStatus
  | txFcOverflow
  deriving DecidableEq, Repr

/-- The interface primitives a step performs, as events (43_shim.md). -/
inductive Event where
  /-- `Xmit`: address, the bytes handed over, their number, the context (R250, R258). -/
  | xmit (addr : Addr) (bytes : List Byte) (len : Nat) (context : Ctx)
  /-- `Alloc(n)` (R253). -/
  | alloc (n : Nat)
  /-- `Free()` (R253). -/
  | free
  /-- `Log(code)` with the context (R254, R258). -/
  | log (code : OutcomeName) (context : Ctx)
  /-- `NotifyRxComplete(msg)` (R255). -/
  | notifyRxComplete (msg : Message)
  /-- `NotifyTxSent(addr, ok)` (R256). -/
  | notifyTxSent (addr : Addr) (ok : Bool)
  deriving DecidableEq, Repr

/-- What an encode function answers (40_codec.md R140): an 8-byte `FRAME` or the error. -/
inductive EncResult where
  | ok (F : FrameBytes)
  | encodeRange
  deriving DecidableEq, Repr

/-- The result a command or codec function returns (R107, R130). -/
inductive Result where
  /-- No result: RX_OPEN, a configuration write, a reset, an idle step. -/
  | none
  /-- The Message of RX_FRAME. -/
  | message (m : Message)
  /-- The pair (`tx.is_complete`, `tx.is_successful`) of TX_BEGIN. -/
  | flags (isComplete isSuccessful : Bool)
  /-- The Boolean of TX_FC and TX_CONTINUE. -/
  | bool (b : Bool)
  /-- The field a decode function extracts; `Option.none` is `absent` (R131). -/
  | field (v : Option Nat)
  /-- The answer of an encode function. -/
  | encoded (r : EncResult)
  deriving DecidableEq, Repr

/-- What the last step returned and did: `result` and `events` of R13 and the outcome's name. The
model's own fields, cleared at the start of every step (log entry 9). -/
structure Output where
  outcome : OutcomeName
  result : Result
  /-- In the order performed (R74). -/
  events : List Event
  deriving DecidableEq, Repr

/-- The whole state. `par` holds the open parameters (R8), `cfg`, `rx`, `tx` the registers of the
spec (R20); `inbox`, `answers`, `asked` and `out` are the model's side of the host and the
environment (log entries 8, 9, 10). -/
structure State where
  par : Params
  cfg : Cfg
  rx : RxSession
  tx : TxSession
  /-- The host's requests not yet executed, the next one first. -/
  inbox : List Request
  /-- The environment's answers to the next `Xmit` and `Alloc` calls, the next one first. -/
  answers : List Bool
  /-- How many `Xmit` and `Alloc` calls have been made: the argument of the free values. -/
  asked : Nat
  out : Output
  deriving DecidableEq, Repr

/-- Why a step stops. The spec has no fault (60_exceptions.md R270). -/
inductive Fault where
  /-- Raised by TX_BEGIN and TX_CONTINUE when they would access `TXMSG` beyond `MAX_MSG`, and by
  RX_FRAME and CF when `RXBUF` lacks a byte they need (20_memory.md R60): a byte the spec says does
  not exist. Safe; the invariant `Inv` rules it out (log entry 17). -/
  | noSuchByte
  deriving DecidableEq, Repr

/-- Why a step has no meaning. -/
inductive Refusal where
  /-- Raised by `exec` for an instruction the model does not have yet. Safe. -/
  | notModelled (mnemonic : String)
  /-- Raised by `step` for a packet the decoder rejects: it cannot be presented (U16, U17). Safe:
  log entry 19. -/
  | undecodable (e : DecodeError)
  /-- Raised by `step` for an instruction with an operand out of range, which cannot be presented
  (R107, R212, U18), and for a write of a context that is no value of `CTX` (R21). Safe: log
  entries 3 and 19. -/
  | operandOutOfRange
  deriving DecidableEq, Repr

/-- The Message of `RXMSG` at reset. DESIGN CHOICE: log entry 4. -/
def Message.atReset : Message :=
  { address := 0, payload := Memory.empty, length := 0, isMultiFrame := false, isComplete := false }

/-- `cfg.*` at reset (R50); the context is the model's choice (log entry 4). -/
def Cfg.atReset : Cfg := { pad := false, logEn := false, context := 0 }

/-- `rx.*` at reset (R50); the addresses and `RXMSG` are the model's choice (log entry 4). -/
def RxSession.atReset : RxSession :=
  { state := .closed, srcAddr := 0, replyAddr := 0, expected := 0, received := 0, buf := none,
    msg := Message.atReset }

/-- `tx.*` at reset (R50); the address and `TXMSG` are the model's choice (log entries 4, 5). -/
def TxSession.atReset : TxSession :=
  { state := .idle, addr := 0, len := 0, msg := Memory.empty, offset := 0, seq := 0,
    toSend := .count 0 }

/-- No result, no event. -/
def Output.blank : Output := { outcome := .ok, result := .none, events := [] }

/-- The block with parameters `p` right after reset (R50), no request and no answer pending. -/
def State.resetWith (p : Params) : State :=
  { par := p, cfg := Cfg.atReset, rx := RxSession.atReset, tx := TxSession.atReset, inbox := [],
    answers := [], asked := 0, out := Output.blank }

/-- The block right after reset (R50, R310), with the recommended parameters (log entry 1). -/
def State.reset : State := State.resetWith Params.recommended

end Sys2Proof.Machine
end

