-- ==== Sys2Proof/Machine/Ops.lean ====
section
/-! DEFINITION. The named operations over the byte stores and the environment: `MemRead` and
`MemWrite` (R11), the interface primitives (43_shim.md), the end of a command, and `raise`
(60_exceptions.md R270). -/

namespace Sys2Proof.Machine

/-- What a meaning answers. -/
abbrev Answer := Host.Outcome State Fault Refusal

/-! ### Byte stores of `MAX_MSG` bytes -/

/-- The byte at an address; an unlisted address reads as 0x00. -/
def Memory.get : Memory → Nat → Byte
  | [], _ => 0
  | (a', b') :: m, a => if a = a' then b' else Memory.get m a

/-- Write one byte, keeping the canonical form. -/
def Memory.set : Memory → Nat → Byte → Memory
  | [], a, b => if b = 0 then [] else [(a, b)]
  | (a', b') :: m, a, b =>
    if a < a' then (if b = 0 then (a', b') :: m else (a, b) :: (a', b') :: m)
    else if a = a' then (if b = 0 then m else (a, b) :: m)
    else (a', b') :: Memory.set m a b

/-- The canonical form: addresses at or above `lo` and strictly rising, no 0x00 listed. -/
def Memory.wfFrom : Nat → Memory → Bool
  | _, [] => true
  | lo, (a, b) :: m => decide (lo ≤ a) && decide (b ≠ 0) && Memory.wfFrom (a + 1) m

/-- The canonical form of a store. -/
def Memory.wf (m : Memory) : Bool := Memory.wfFrom 0 m

/-- `MemRead(S, i, n)`: n consecutive bytes from index i, ascending (R11). -/
def Memory.read (m : Memory) (i : Nat) : Nat → List Byte
  | 0 => []
  | n + 1 => Memory.get m i :: Memory.read m (i + 1) n

/-- `MemWrite(S, i, n, v)`: the bytes of v at indices i, i+1, … (R11). -/
def Memory.write (m : Memory) (i : Nat) : List Byte → Memory
  | [] => m
  | b :: v => Memory.write (Memory.set m i b) (i + 1) v

/-! ### Byte stores held as lists: `FRAME` and `RXBUF` -/

/-- `MemRead` from a byte list: the bytes at indices i to i+n-1 that exist. -/
def bytesRead (l : List Byte) (i n : Nat) : List Byte := (l.drop i).take n

/-- `MemWrite` into a byte list: only bytes that exist are written, the length stays. -/
def bytesWrite : List Byte → Nat → List Byte → List Byte
  | [], _, _ => []
  | b :: l, 0, [] => b :: l
  | _ :: l, 0, v :: vs => v :: bytesWrite l 0 vs
  | b :: l, i + 1, vs => b :: bytesWrite l i vs

/-! ### Registers of `LEN_W` bits -/

/-- The number `n` in a register of `LEN_W` bits. No rule stores a number that does not fit (R222); the
register would keep its low 16 bits (log entry 16). -/
def toLen (n : Nat) : Len := BitVec.ofNat Config.lenW n

/-! ### Messages -/

/-- A complete Message whose payload is exactly `bytes`, 0x00 beyond (R174, R176). -/
def completeMsg (a : Addr) (bytes : List Byte) (multi : Bool) : Message :=
  { address := a, payload := Memory.write Memory.empty 0 bytes, length := toLen bytes.length,
    isMultiFrame := multi, isComplete := true }

/-- `IgnoreMsg(a)` (R172). -/
def ignoreMsg (a : Addr) : Message :=
  { address := a, payload := Memory.empty, length := 0, isMultiFrame := false, isComplete := false }

/-- The incomplete multi-frame Message of the FF and CF handlers (R175, R176). -/
def partialMsg (a : Addr) : Message :=
  { address := a, payload := Memory.empty, length := 0, isMultiFrame := true, isComplete := false }

/-! ### Events and answers -/

/-- Append one event to the step's list (R74). -/
def emit (e : Event) (s : State) : State := { s with out := { s.out with events := s.out.events ++ [e] } }

/-- The environment's answer to the next call: the next one listed, else a free value (R252, R253). -/
def nextAnswer (s : State) : Bool :=
  match s.answers with
  | b :: _ => b
  | [] => Config.freeAnswer s.asked

/-- The answer has been given. -/
def consumeAnswer (s : State) : State := { s with answers := s.answers.tail, asked := s.asked + 1 }

/-- The length handed to the transport: 8 if `cfg.pad = 1`, else the used length (R251). -/
def xmitLen (s : State) (used : Nat) : Nat := if s.cfg.pad then Config.frameCap else used

/-- The event of `Xmit(addr, F, used)` (R250). -/
def xmitEvent (a : Addr) (F : List Byte) (used : Nat) (s : State) : Event :=
  .xmit a (F.take (xmitLen s used)) (xmitLen s used) s.cfg.context

/-- `Xmit(addr, F, used)`: the state after it; its answer is `nextAnswer` of the state before (R250). -/
def xmit (a : Addr) (F : List Byte) (used : Nat) (s : State) : State :=
  consumeAnswer (emit (xmitEvent a F used s) s)

/-- The unspecified contents of a buffer of n bytes that call number `k` allocated (R70, R253). -/
def freshBuffer (k n : Nat) : List Byte := (List.range n).map (Config.freshByte k)

/-- `Alloc(n)`: the event; its answer is `nextAnswer` of the state before (R253). -/
def alloc (n : Nat) (s : State) : State := consumeAnswer (emit (.alloc n) s)

/-- `Free()`: the event, and `RXBUF` ceases to exist (R253). -/
def free (s : State) : State :=
  let s := emit .free s
  { s with rx := { s.rx with buf := none } }

/-- `Log(code)`: an event if `cfg.log_en = 1`, else nothing (R254). -/
def logOutcome (o : OutcomeName) (s : State) : State :=
  if s.cfg.logEn then emit (.log o s.cfg.context) s else s

/-- `NotifyRxComplete(msg)` (R255). -/
def notifyRxComplete (m : Message) (s : State) : State := emit (.notifyRxComplete m) s

/-- `NotifyTxSent(addr, ok)` (R256). -/
def notifyTxSent (a : Addr) (ok : Bool) (s : State) : State := emit (.notifyTxSent a ok) s

/-! ### The start and the end of a command -/

/-- The numeric code of an outcome (R271). -/
def OutcomeName.code : OutcomeName → Nat
  | .ok => 0
  | .rxIgnClosed => 1
  | .rxIgnEmpty => 2
  | .rxIgnAddr => 3
  | .rxIgnType => 4
  | .rxIgnState => 5
  | .rxIgnMalformed => 6
  | .rxRejTooLong => 7
  | .rxRejAlloc => 8
  | .rxFailReassembly => 9
  | .txErrEncode => 10
  | .txErrXmit => 11
  | .txFcIgnState => 12
  | .txFcRejFormat => 13
  | .txFcRejStatus => 14
  | .txFcOverflow => 15

/-- The column `logged` of R271. -/
def OutcomeName.logged : OutcomeName → Bool
  | .ok => false
  | .rxIgnClosed => false
  | .rxIgnEmpty => false
  | .rxIgnAddr => false
  | .rxIgnType => false
  | .rxIgnState => false
  | .rxIgnMalformed => false
  | .rxRejTooLong => true
  | .rxRejAlloc => true
  | .rxFailReassembly => true
  | .txErrEncode => false
  | .txErrXmit => false
  | .txFcIgnState => false
  | .txFcRejFormat => true
  | .txFcRejStatus => true
  | .txFcOverflow => false

/-- A step begins: nothing returned and nothing done yet (R13). -/
def start (s : State) : State := { s with out := Output.blank }

/-- The command ends with outcome `o` and result `r`. -/
def finish (o : OutcomeName) (r : Result) (s : State) : State :=
  { s with out := { s.out with outcome := o, result := r } }

/-- `raise X(v)`: log if X is marked logged, then end with result v (R270). The block's counterpart of
taking an exception: nothing is saved and control goes nowhere (R280), and there is no return. -/
def raise (o : OutcomeName) (r : Result) (s : State) : State :=
  finish o r (if o.logged then logOutcome o s else s)

/-- `return v`: the outcome is `OK` (R11, R271). -/
def done (r : Result) (s : State) : State := finish .ok r s

end Sys2Proof.Machine
end

