-- ==== Sys2Proof/Machine/Operands.lean ====
section
/-! DEFINITION. The fields of a frame: the codec's seven decode functions and four encode functions
(40_codec.md R130 to R144, 30_encoding.md R99). Pure functions of their arguments. -/

namespace Sys2Proof.Machine

/-- A value read from the byte at index `i`, or `absent` if that byte is not valid (R131). -/
def fieldAt (f : Frame) (i : Nat) (v : Nat) : Option Nat := if i < f.dlen.val then some v else none

/-- `DEC_TYPE` (R133). -/
def decType (f : Frame) : Option Nat := fieldAt f 0 (hiNibble f.bytes.b0).toNat

/-- `DEC_SF_DL` (R134). -/
def decSfDl (f : Frame) : Option Nat := fieldAt f 0 (loNibble f.bytes.b0).toNat

/-- `DEC_FF_DL` (R135): `256 * F[0][3:0] + F[1]`. -/
def decFfDl (f : Frame) : Option Nat :=
  fieldAt f 1 (256 * (loNibble f.bytes.b0).toNat + f.bytes.b1.toNat)

/-- `DEC_CF_SN` (R136). -/
def decCfSn (f : Frame) : Option Nat := fieldAt f 0 (loNibble f.bytes.b0).toNat

/-- `DEC_FC_FS` (R137). -/
def decFcFs (f : Frame) : Option Nat := fieldAt f 0 (loNibble f.bytes.b0).toNat

/-- `DEC_FC_BS` (R138). -/
def decFcBs (f : Frame) : Option Nat := fieldAt f 1 f.bytes.b1.toNat

/-- `DEC_FC_ST` (R139). -/
def decFcSt (f : Frame) : Option Nat := fieldAt f 2 f.bytes.b2.toNat

/-- The zero-initialized buffer of an encode function with its header bytes written (R140). -/
def header (ty low : Nibble) (b1 b2 : Byte) : FrameBytes :=
  { b0 := joinNibbles ty low, b1 := b1, b2 := b2, b3 := 0, b4 := 0, b5 := 0, b6 := 0, b7 := 0 }

/-- `ENC_SF` (R141). -/
def encSf (dl : Half) : EncResult :=
  if 15 < dl.toNat then .encodeRange else .ok (header 0 (dl.extractLsb' 0 4) 0 0)

/-- `ENC_FF` (R142). -/
def encFf (total : Half) : EncResult :=
  if 4095 < total.toNat then .encodeRange
  else .ok (header 1 (total.extractLsb' 8 4) (total.extractLsb' 0 8) 0)

/-- `ENC_CF` (R143). -/
def encCf (sn : Half) : EncResult :=
  if 15 < sn.toNat then .encodeRange else .ok (header 2 (sn.extractLsb' 0 4) 0 0)

/-- `ENC_FC` (R144). -/
def encFc (fs bs st : Half) : EncResult :=
  if 15 < fs.toNat ∨ 255 < bs.toNat ∨ 255 < st.toNat then .encodeRange
  else .ok (header 3 (fs.extractLsb' 0 4) (bs.extractLsb' 0 8) (st.extractLsb' 0 8))

/-- `FRAME` with a payload run written at index `i` over an encoded header (R140, R210, R211, R219). -/
def withPayload (F : FrameBytes) (i : Nat) (payload : List Byte) : List Byte :=
  bytesWrite F.toList i payload

end Sys2Proof.Machine
end

