-- ==== Sys2Proof/Machine/Codec.lean ====
section
/-! DEFINITION. The codec functions as instructions (40_codec.md): the result and nothing else, "reads
no register, writes none, and emits no event" (R130; log entries 12 and 24). -/

namespace Sys2Proof.Machine

/-- DEC_TYPE (R133). -/
def execDecType (f : Frame) (s : State) : Answer := .next (done (.field (decType f)) (start s))

/-- DEC_SF_DL (R134). -/
def execDecSfDl (f : Frame) (s : State) : Answer := .next (done (.field (decSfDl f)) (start s))

/-- DEC_FF_DL (R135). -/
def execDecFfDl (f : Frame) (s : State) : Answer := .next (done (.field (decFfDl f)) (start s))

/-- DEC_CF_SN (R136). -/
def execDecCfSn (f : Frame) (s : State) : Answer := .next (done (.field (decCfSn f)) (start s))

/-- DEC_FC_FS (R137). -/
def execDecFcFs (f : Frame) (s : State) : Answer := .next (done (.field (decFcFs f)) (start s))

/-- DEC_FC_BS (R138). -/
def execDecFcBs (f : Frame) (s : State) : Answer := .next (done (.field (decFcBs f)) (start s))

/-- DEC_FC_ST (R139). -/
def execDecFcSt (f : Frame) (s : State) : Answer := .next (done (.field (decFcSt f)) (start s))

/-- ENC_SF (R141). -/
def execEncSf (dl : Half) (s : State) : Answer := .next (done (.encoded (encSf dl)) (start s))

/-- ENC_FF (R142). -/
def execEncFf (total : Half) (s : State) : Answer := .next (done (.encoded (encFf total)) (start s))

/-- ENC_CF (R143). -/
def execEncCf (sn : Half) (s : State) : Answer := .next (done (.encoded (encCf sn)) (start s))

/-- ENC_FC (R144). -/
def execEncFc (fs bs st : Half) (s : State) : Answer :=
  .next (done (.encoded (encFc fs bs st)) (start s))

end Sys2Proof.Machine
end

