-- ==== Sys2Proof/Machine/Flags.lean ====
section
/-! DEFINITION. The status flags, derived from the session state registers and never stored (10_state.md
R23, R31, R32, R41), and the flag-like views of `tx.to_send` (R38). -/

namespace Sys2Proof.Machine

/-- `rx.is_complete` (R23). -/
def rxIsComplete (s : State) : Bool :=
  match s.rx.state with
  | .closed => false
  | .awaitFf => false
  | .reassembling => false
  | .complete => true
  | .failed => true

/-- `rx.is_successful` (R23). -/
def rxIsSuccessful (s : State) : Bool :=
  match s.rx.state with
  | .closed => false
  | .awaitFf => false
  | .reassembling => false
  | .complete => true
  | .failed => false

/-- `rx.buf_live`: a reassembly buffer is present (R22, R71). -/
def rxBufLive (s : State) : Bool := s.rx.buf.isSome

/-- `tx.is_complete` (R31). -/
def txIsComplete (s : State) : Bool :=
  match s.tx.state with
  | .idle => false
  | .active => false
  | .complete => true
  | .failed => true

/-- `tx.is_successful` (R31). -/
def txIsSuccessful (s : State) : Bool :=
  match s.tx.state with
  | .idle => false
  | .active => false
  | .complete => true
  | .failed => false

/-- `tx.to_send != 0` (R38). -/
def mayTransmit (t : ToSend) : Bool :=
  match t with
  | .unlimited => true
  | .count n => decide (n ≠ 0)

/-- One frame has been sent: `Count n` with n at least 1 becomes `Count (n-1)`; `UNLIMITED` stays
(R38, R219). `Count 0` is never decremented; it stays. -/
def afterOneFrame (t : ToSend) : ToSend :=
  match t with
  | .unlimited => .unlimited
  | .count n => if n = 0 then .count n else .count (n - 1)

/-- A Continue's block size as a permitted count: 0 is unlimited (R97, R214). -/
def permitted (bs : Nat) : ToSend := if bs = 0 then .unlimited else .count (BitVec.ofNat 8 bs)

/-- `AwaitingFlowControl` (R32). -/
def awaitingFlowControl (s : State) : Bool := decide (s.tx.state = .active) && !mayTransmit s.tx.toSend

/-- `Sending` (R32). -/
def sending (s : State) : Bool := decide (s.tx.state = .active) && mayTransmit s.tx.toSend

end Sys2Proof.Machine
end

