-- ==== Sys2Proof/Machine/Receive.lean ====
section
/-! DEFINITION. The Receive Session (41_receive.md): RX_OPEN, and RX_FRAME as an entry rule, a dispatch
and one handler per frame type. The handlers are shared with the frame instructions. -/

namespace Sys2Proof.Machine

/-! ### RX_OPEN (R170) -/

/-- RX_OPEN (R170): a live buffer is freed, the addresses are loaded, the counters cleared. -/
def execRxOpen (source reply : Addr) (s : State) : Answer :=
  let s := start s
  let s := if rxBufLive s then free s else s
  .next (done .none { s with rx := { s.rx with srcAddr := source, replyAddr := reply, expected := 0,
                                               received := 0, state := .awaitFf } })

/-! ### Entry (R171) and ignored frames (R172, R177, R178) -/

/-- The frame is ignored: `IgnoreMsg`, no state change, no event (R172, R272). -/
def rxIgnore (o : OutcomeName) (a : Addr) (s : State) : Answer :=
  .next (raise o (.message (ignoreMsg a)) s)

/-- The entry checks of RX_FRAME in the order of R171, then the handler `k`. -/
def rxEnter (a : Addr) (f : Frame) (s : State) (k : State → Answer) : Answer :=
  if s.rx.state = .closed then rxIgnore .rxIgnClosed a s
  else if f.dlen.val = 0 then rxIgnore .rxIgnEmpty a s
  else if a ≠ s.rx.srcAddr then rxIgnore .rxIgnAddr a s
  else k s

/-- Flow control and unrecognized types are ignored in every state (R177). -/
def rxOtherType (a : Addr) (s : State) : Answer := rxIgnore .rxIgnType a s

/-! ### Single frame (R174) -/

/-- The Message of a Single frame whose payload is `F[1] .. F[dl]` (R174). -/
def singleMsg (a : Addr) (f : Frame) (dl : Nat) : Message :=
  completeMsg a (bytesRead f.bytes.toList 1 dl) false

/-- The Single-frame handler; in any state but AWAIT_FF the frame is ignored (R173, R174, R178). -/
def rxSingle (a : Addr) (f : Frame) (s : State) : Answer :=
  if s.rx.state ≠ .awaitFf then rxIgnore .rxIgnState a s
  else match decSfDl f with
    | none => rxIgnore .rxIgnMalformed a s
    | some dl =>
      if Config.sfMax < dl ∨ f.dlen.val - 1 < dl then rxIgnore .rxIgnMalformed a s
      else
        let m := singleMsg a f dl
        let s := { s with rx := { s.rx with msg := m, state := .complete } }
        .next (done (.message m) (notifyRxComplete m s))

/-! ### First frame (R175) -/

/-- The 8 bytes of the flow-control frame the receiver sends: `ENC_FC(0, 0, 0)`, which cannot fail (R175). -/
def grantFrame : List Byte :=
  match encFc 0 0 0 with
  | .ok F => F.toList
  | .encodeRange => []

/-- Bytes a First frame contributes: those present, at most the total (R175). -/
def ffCount (f : Frame) (total : Nat) : Nat := min (f.dlen.val - 2) total

/-- `RXBUF` after the First frame's bytes are copied into the fresh buffer of call number `k` (R175). -/
def ffBuffer (k : Nat) (f : Frame) (total : Nat) : List Byte :=
  bytesWrite (freshBuffer k total) 0 (bytesRead f.bytes.toList 2 (ffCount f total))

/-- The First frame is accepted: buffer, counters, state, then the flow-control frame, whose answer is
discarded (R175, D13). `k` is the number of the `Alloc` call. -/
def rxAcceptFirst (a : Addr) (f : Frame) (total k : Nat) (s : State) : State :=
  let s := { s with rx := { s.rx with buf := some (ffBuffer k f total), expected := toLen total,
                                      received := toLen (ffCount f total), state := .reassembling } }
  done (.message (partialMsg a)) (xmit s.rx.replyAddr grantFrame 3 s)

/-- The First-frame handler: length check before allocation; in any state but AWAIT_FF the frame is
ignored (R173, R175, R178). -/
def rxFirst (a : Addr) (f : Frame) (s : State) : Answer :=
  if s.rx.state ≠ .awaitFf then rxIgnore .rxIgnState a s
  else match decFfDl f with
    | none => rxIgnore .rxIgnMalformed a s
    | some total =>
      if s.par.maxMsg < total then .next (raise .rxRejTooLong (.message (ignoreMsg a)) s)
      else .next (if nextAnswer s then rxAcceptFirst a f total s.asked (alloc total s)
                  else raise .rxRejAlloc (.message (ignoreMsg a)) (alloc total s))

/-! ### Consecutive frame (R176) -/

/-- Bytes still missing (R176). -/
def rxMissing (s : State) : Nat := s.rx.expected.toNat - s.rx.received.toNat

/-- Bytes a Consecutive frame contributes: those present, at most those missing (R176). -/
def cfCount (f : Frame) (s : State) : Nat := min (f.dlen.val - 1) (rxMissing s)

/-- The buffer is exactly full: copy out, mark, release, notify (R176). -/
def rxFull (a : Addr) (s : State) (buf : List Byte) : State :=
  let m := completeMsg a (bytesRead buf 0 s.rx.expected.toNat) true
  let s := { s with rx := { s.rx with msg := m, state := .complete } }
  done (.message m) (notifyRxComplete m (free s))

/-- The final frame fell short: the transfer fails, without a notification (R176, R274). -/
def rxShort (a : Addr) (s : State) : State :=
  let s := { s with rx := { s.rx with state := .failed } }
  raise .rxFailReassembly (.message (partialMsg a)) (free s)

/-- The Consecutive-frame handler; in any state but REASSEMBLING the frame is ignored. SN is not read
(R173, R176, R178). -/
def rxConsecutive (a : Addr) (f : Frame) (s : State) : Answer :=
  if s.rx.state ≠ .reassembling then rxIgnore .rxIgnState a s
  else match s.rx.buf with
    | none => .fault .noSuchByte
    | some buf =>
      if buf.length < s.rx.expected.toNat then .fault .noSuchByte
      else
        let missing := rxMissing s
        let n := cfCount f s
        let buf := bytesWrite buf s.rx.received.toNat (bytesRead f.bytes.toList 1 n)
        let received := toLen (s.rx.received.toNat + n)
        let s := { s with rx := { s.rx with buf := some buf, received := received } }
        .next (if s.rx.received = s.rx.expected then rxFull a s buf
               else if missing ≤ Config.cfData then rxShort a s
               else done (.message (partialMsg a)) s)

/-! ### RX_FRAME (R171, R173) -/

/-- Dispatch on the type nibble (R173). `absent` cannot occur after the entry checks, `dlen` being at
least 1. -/
def rxDispatch (a : Addr) (f : Frame) (s : State) : Answer :=
  match decType f with
  | some 0 => rxSingle a f s
  | some 1 => rxFirst a f s
  | some 2 => rxConsecutive a f s
  | _ => rxOtherType a s

/-- RX_FRAME (R171). -/
def execRxFrame (a : Addr) (f : Frame) (s : State) : Answer :=
  rxEnter a f (start s) (rxDispatch a f)

end Sys2Proof.Machine
end

