-- ==== Sys2Proof/Machine/Send.lean ====
section
/-! DEFINITION. The Send Session (42_send.md): TX_BEGIN, TX_FC, TX_CONTINUE. The status handlers of
TX_FC are shared with the flow-control frame instructions. -/

namespace Sys2Proof.Machine

/-- The transfer ends as failed: state, notification, then the outcome (R210, R211, R219). -/
def txFail (o : OutcomeName) (r : Result) (s : State) : State :=
  let s := { s with tx := { s.tx with state := .failed } }
  raise o r (notifyTxSent s.tx.addr false s)

/-! ### TX_BEGIN (R212, R210, R211) -/

/-- The common part: the message is captured and the progress counters reset (R212). -/
def txCapture (a : Addr) (payload : List Byte) (length : Nat) (s : State) : State :=
  { s with tx := { s.tx with addr := a, len := toLen length,
                             msg := Memory.write s.tx.msg 0 (payload.take length),
                             offset := 0, seq := 1, toSend := .count 0 } }

/-- The whole 8-byte `FRAME` of the single-frame path, or nothing if the header cannot be encoded,
which cannot happen for a length of at most 7 (R210). -/
def singleFrameBytes (s : State) : Option (List Byte) :=
  match encSf s.tx.len with
  | .ok F => some (withPayload F 1 (Memory.read s.tx.msg 0 s.tx.len.toNat))
  | .encodeRange => none

/-- The single-frame path (R210). -/
def txSingle (s : State) : State :=
  match singleFrameBytes s with
  | none => txFail .txErrEncode (.flags true false) s
  | some F =>
    if nextAnswer s then
      let s := xmit s.tx.addr F (1 + s.tx.len.toNat) s
      let s := { s with tx := { s.tx with offset := s.tx.len, state := .complete } }
      done (.flags true true) (notifyTxSent s.tx.addr true s)
    else txFail .txErrXmit (.flags true false) (xmit s.tx.addr F (1 + s.tx.len.toNat) s)

/-- The whole `FRAME` of the first frame: header and message bytes 0 to 5, or nothing if the length
does not fit 12 bits (R211). -/
def firstFrameBytes (s : State) : Option (List Byte) :=
  match encFf s.tx.len with
  | .ok F => some (withPayload F 2 (Memory.read s.tx.msg 0 Config.ffData))
  | .encodeRange => none

/-- The multi-frame path (R211). -/
def txMulti (s : State) : State :=
  match firstFrameBytes s with
  | none => txFail .txErrEncode (.flags true false) s
  | some F =>
    if nextAnswer s then
      let s := xmit s.tx.addr F 8 s
      done (.flags false false)
        { s with tx := { s.tx with offset := toLen Config.ffData, seq := 1, toSend := .count 0,
                                   state := .active } }
    else txFail .txErrXmit (.flags true false) (xmit s.tx.addr F 8 s)

/-- TX_BEGIN (R212). A length above `MAX_MSG`, which cannot be presented, would write beyond `TXMSG`. -/
def execTxBegin (a : Addr) (payload : List Byte) (length : Nat) (s : State) : Answer :=
  if s.par.maxMsg < length then .fault .noSuchByte
  else
    let s := txCapture a payload length (start s)
    .next (if length ≤ Config.sfMax then txSingle s else txMulti s)

/-! ### TX_FC (R213 to R218) -/

/-- Validation: not active, then size and type, then the handler `k` (R213, R218). -/
def txFcEnter (f : Frame) (s : State) (k : State → Answer) : Answer :=
  if s.tx.state ≠ .active then .next (raise .txFcIgnState (.bool false) s)
  else if f.dlen.val < s.par.fcMinLen ∨ decType f ≠ some 3 then
    .next (raise .txFcRejFormat (.bool false) s)
  else k s

/-- Status Continue (R214). The block size is present because `dlen` is at least `FC_MIN_LEN`, at
least 2 (R8); were it absent the frame would be malformed (log entry 18). -/
def txFcContinue (f : Frame) (s : State) : Answer :=
  match decFcBs f with
  | none => .next (raise .txFcRejFormat (.bool false) s)
  | some bs => .next (done (.bool true) { s with tx := { s.tx with toSend := permitted bs } })

/-- Status Wait (R215). -/
def txFcWait (s : State) : Answer :=
  .next (done (.bool true) { s with tx := { s.tx with toSend := .count 0 } })

/-- Status Overflow: the transfer ends as failed and the result is true (R216). -/
def txFcOverflow (s : State) : Answer := .next (txFail .txFcOverflow (.bool true) s)

/-- Any other status is rejected (R217). -/
def txFcOtherStatus (s : State) : Answer := .next (raise .txFcRejStatus (.bool false) s)

/-- The case distinction on the status (R213 step 4). `absent` cannot occur after the validation. -/
def txFcDispatch (f : Frame) (s : State) : Answer :=
  match decFcFs f with
  | some 0 => txFcContinue f s
  | some 1 => txFcWait s
  | some 2 => txFcOverflow s
  | _ => txFcOtherStatus s

/-- TX_FC (R213): the address is compared with nothing. -/
def execTxFc (_a : Addr) (f : Frame) (s : State) : Answer := txFcEnter f (start s) (txFcDispatch f)

/-! ### TX_CONTINUE (R219, R220) -/

/-- Payload bytes of the next Consecutive frame (R219 step 3). -/
def cfPayloadCount (s : State) : Nat := min Config.cfData (s.tx.len.toNat - s.tx.offset.toNat)

/-- The whole `FRAME` of the next Consecutive frame, or nothing if SN cannot be encoded, which cannot
happen for a 4-bit register (R219 steps 4 and 5). -/
def nextCfBytes (s : State) : Option (List Byte) :=
  match encCf (s.tx.seq.zeroExtend 16) with
  | .ok F => some (withPayload F 1 (Memory.read s.tx.msg s.tx.offset.toNat (cfPayloadCount s)))
  | .encodeRange => none

/-- The frame was accepted: the progress counters advance (R219 steps 7 to 9). -/
def txAdvance (n : Nat) (s : State) : State :=
  { s with tx := { s.tx with seq := s.tx.seq + 1, offset := toLen (s.tx.offset.toNat + n),
                             toSend := afterOneFrame s.tx.toSend } }

/-- The last bytes have gone out (R219 step 10). -/
def txCompleteIfLast (s : State) : State :=
  if s.tx.offset = s.tx.len then
    let s := { s with tx := { s.tx with state := .complete } }
    notifyTxSent s.tx.addr true s
  else s

/-- One Consecutive frame is encoded and handed to the transport (R219 steps 3 to 11). -/
def txPump (s : State) : State :=
  let n := cfPayloadCount s
  match nextCfBytes s with
  | none => txFail .txErrEncode (.bool false) s
  | some F =>
    if nextAnswer s then done (.bool true) (txCompleteIfLast (txAdvance n (xmit s.tx.addr F (1 + n) s)))
    else txFail .txErrXmit (.bool false) (xmit s.tx.addr F (1 + n) s)

/-- TX_CONTINUE (R219); a no-op returning true when nothing is to be sent (R219 step 2, R220). -/
def execTxContinue (s : State) : Answer :=
  let s := start s
  if s.tx.state ≠ .active then .next (done (.bool true) s)
  else if mayTransmit s.tx.toSend = false then .next (done (.bool true) s)
  else if s.par.maxMsg < s.tx.offset.toNat + cfPayloadCount s then .fault .noSuchByte
  else .next (txPump s)

end Sys2Proof.Machine
end

