-- ==== Sys2Proof/Machine/Frames.lean ====
section
/-! DEFINITION. The frame instructions: a frame of one format, delivered to the session that consumes
it (30_encoding.md R91; log entry 13). SF, FF, CF and unrecognized types go through the entry checks
of RX_FRAME (R171) and their cell of the dispatch table (R173); flow control goes through the
validation of TX_FC (R213) and its status. -/

namespace Sys2Proof.Machine

/-- SF (R174). -/
def execSf (a : Addr) (dl : Nibble) (t : Tail1) (n : Fin 9) (s : State) : Answer :=
  let f := frameSf dl t n
  rxEnter a f (start s) (rxSingle a f)

/-- FF (R175). -/
def execFf (a : Addr) (total : BitVec 12) (t : Tail2) (n : Fin 9) (s : State) : Answer :=
  let f := frameFf total t n
  rxEnter a f (start s) (rxFirst a f)

/-- CF (R176). -/
def execCf (a : Addr) (sn : Nibble) (t : Tail1) (n : Fin 9) (s : State) : Answer :=
  let f := frameCf sn t n
  rxEnter a f (start s) (rxConsecutive a f)

/-- FC.CTS (R214). -/
def execFcCts (_a : Addr) (bs st : Byte) (t : Tail3) (n : Fin 9) (s : State) : Answer :=
  let f := frameFc 0 bs st t n
  txFcEnter f (start s) (txFcContinue f)

/-- FC.WAIT (R215). -/
def execFcWait (_a : Addr) (bs st : Byte) (t : Tail3) (n : Fin 9) (s : State) : Answer :=
  txFcEnter (frameFc 1 bs st t n) (start s) txFcWait

/-- FC.OVFLW (R216). -/
def execFcOvflw (_a : Addr) (bs st : Byte) (t : Tail3) (n : Fin 9) (s : State) : Answer :=
  txFcEnter (frameFc 2 bs st t n) (start s) txFcOverflow

/-- FC.RSVD3 (R217). -/
def execFcRsvd3 (_a : Addr) (bs st : Byte) (t : Tail3) (n : Fin 9) (s : State) : Answer :=
  txFcEnter (frameFc 3 bs st t n) (start s) txFcOtherStatus

/-- FC.RSVD4_7 (R217). -/
def execFcRsvd4to7 (_a : Addr) (ss : BitVec 2) (bs st : Byte) (t : Tail3) (n : Fin 9) (s : State) :
    Answer :=
  txFcEnter (frameFc (nibble4to7 ss) bs st t n) (start s) txFcOtherStatus

/-- FC.RSVD8_15 (R217). -/
def execFcRsvd8to15 (_a : Addr) (ss : BitVec 3) (bs st : Byte) (t : Tail3) (n : Fin 9) (s : State) :
    Answer :=
  txFcEnter (frameFc (nibble8to15 ss) bs st t n) (start s) txFcOtherStatus

/-- RSVD.TYPE4_7 (R177). -/
def execRsvdType4to7 (a : Addr) (tt : BitVec 2) (low : Nibble) (t : Tail1) (n : Fin 9) (s : State) :
    Answer :=
  rxEnter a (frameWithTail1 (nibble4to7 tt) low t n) (start s) (rxOtherType a)

/-- RSVD.TYPE8_15 (R177). -/
def execRsvdType8to15 (a : Addr) (tt : BitVec 3) (low : Nibble) (t : Tail1) (n : Fin 9) (s : State) :
    Answer :=
  rxEnter a (frameWithTail1 (nibble8to15 tt) low t n) (start s) (rxOtherType a)

end Sys2Proof.Machine
end

