-- ==== Sys2Proof/Machine/Dispatch.lean ====
section
/-! DEFINITION. One arm per constructor of Instr, each one call of its meaning. -/

namespace Sys2Proof.Machine

def exec (i : Instr) (s : State) : Host.Outcome State Fault Refusal :=
  match i with
  | .sf a dl t n => Sys2Proof.Machine.execSf a dl t n s
  | .ff a total t n => Sys2Proof.Machine.execFf a total t n s
  | .cf a sn t n => Sys2Proof.Machine.execCf a sn t n s
  | .fcCts a bs st t n => Sys2Proof.Machine.execFcCts a bs st t n s
  | .fcWait a bs st t n => Sys2Proof.Machine.execFcWait a bs st t n s
  | .fcOvflw a bs st t n => Sys2Proof.Machine.execFcOvflw a bs st t n s
  | .fcRsvd3 a bs st t n => Sys2Proof.Machine.execFcRsvd3 a bs st t n s
  | .fcRsvd4to7 a ss bs st t n => Sys2Proof.Machine.execFcRsvd4to7 a ss bs st t n s
  | .fcRsvd8to15 a ss bs st t n => Sys2Proof.Machine.execFcRsvd8to15 a ss bs st t n s
  | .rsvdType4to7 a tt low t n => Sys2Proof.Machine.execRsvdType4to7 a tt low t n s
  | .rsvdType8to15 a tt low t n => Sys2Proof.Machine.execRsvdType8to15 a tt low t n s
  | .rxOpen source reply => Sys2Proof.Machine.execRxOpen source reply s
  | .rxFrame a f => Sys2Proof.Machine.execRxFrame a f s
  | .txBegin a payload length => Sys2Proof.Machine.execTxBegin a payload length s
  | .txFc a f => Sys2Proof.Machine.execTxFc a f s
  | .txContinue => Sys2Proof.Machine.execTxContinue s
  | .decType f => Sys2Proof.Machine.execDecType f s
  | .decSfDl f => Sys2Proof.Machine.execDecSfDl f s
  | .decFfDl f => Sys2Proof.Machine.execDecFfDl f s
  | .decCfSn f => Sys2Proof.Machine.execDecCfSn f s
  | .decFcFs f => Sys2Proof.Machine.execDecFcFs f s
  | .decFcBs f => Sys2Proof.Machine.execDecFcBs f s
  | .decFcSt f => Sys2Proof.Machine.execDecFcSt f s
  | .encSf dl => Sys2Proof.Machine.execEncSf dl s
  | .encFf total => Sys2Proof.Machine.execEncFf total s
  | .encCf sn => Sys2Proof.Machine.execEncCf sn s
  | .encFc fs bs st => Sys2Proof.Machine.execEncFc fs bs st s

end Sys2Proof.Machine
end

