-- ==== Sys2Proof/Machine/Port.lean ====
section
/-! DEFINITION. What the host does between commands: nothing, a configuration write (R21, R322), a
hardware reset (R310); and the placing of a packet where the next step takes it. -/

namespace Sys2Proof.Machine

/-- The head request has been taken from the inbox. -/
def taken (s : State) : State := { s with inbox := s.inbox.tail }

/-- No request: the block waits, "simply idle between commands" (R289). Log entry 10. -/
def idle (s : State) : State := start s

/-- The host writes `cfg.pad`. -/
def writePad (b : Bool) (s : State) : State :=
  let s := start s
  { s with cfg := { s.cfg with pad := b } }

/-- The host writes `cfg.log_en`. -/
def writeLogEn (b : Bool) (s : State) : State :=
  let s := start s
  { s with cfg := { s.cfg with logEn := b } }

/-- The host writes `cfg.context`. -/
def writeContext (c : Ctx) (s : State) : State :=
  let s := start s
  { s with cfg := { s.cfg with context := c } }

/-- The host's write of `cfg.context`: only a value of `CTX` can be written (R8, R21; log entry 3). -/
def hostWritesContext (c : Ctx) (s : State) : Answer :=
  if s.par.ctxOk c then .next (writeContext c s) else .refused .operandOutOfRange

/-- Hardware reset: every register takes its reset value, a live buffer is forgotten without `Free`,
no event (R310). The host's further requests and the environment stay (log entry 21). -/
def hardReset (s : State) : State :=
  { State.resetWith s.par with inbox := s.inbox, answers := s.answers, asked := s.asked }

/-- A packet placed as the next request. -/
def place (p : Packet) (s : State) : State := { s with inbox := .packet p :: s.inbox }

end Sys2Proof.Machine
end

