-- ==== Sys2Proof/Machine/Step.lean ====
section
/-! DEFINITION. One step: the head request of the inbox. Three outcomes: a next state, a fault, a
refusal of what cannot be presented. -/

namespace Sys2Proof.Machine

/-- A packet is decoded, its operands are checked, and the instruction is executed. -/
def stepPacket (p : Packet) (s : State) : Host.Outcome State Fault Refusal :=
  match decode p with
  | .error e => .refused (.undecodable e)
  | .ok i => if i.wf s.par then exec i s else .refused .operandOutOfRange

/-- One step (R12, R13): one command, one configuration write or one reset, whole; with no request the
block is idle. -/
def step (s : State) : Host.Outcome State Fault Refusal :=
  match s.inbox with
  | [] => .next (idle s)
  | .packet p :: _ => stepPacket p (taken s)
  | .writePad b :: _ => .next (writePad b (taken s))
  | .writeLogEn b :: _ => .next (writeLogEn b (taken s))
  | .writeContext c :: _ => hostWritesContext c (taken s)
  | .reset :: _ => .next (hardReset (taken s))

/-- `s` with the packet of a word of the opcode table as its next request (log entry 14). -/
def State.withFetchWord (s : State) (nbits w : Nat) : State := place (packetOfWord nbits w) s

end Sys2Proof.Machine
end

