-- ==== Sys2Proof/Safety.lean ====
section
/-! DEFINITION. What counts as a legal state: the invariants the spec gives (10_state.md R25, R33), the
ranges of the registers (R22, R30, R38), and the canonical form of the stores. -/

namespace Sys2Proof.Machine

/-- Every listed address of a store lies below `n`, and the store is in canonical form. -/
abbrev MemoryIn (n : Nat) (m : Memory) : Prop := m.wf = true ∧ ∀ c ∈ m, c.1 < n

/-- The receive invariants R25: a buffer of `rx.expected` bytes is live exactly in REASSEMBLING, and
`rx.received <= rx.expected <= min(MAX_MSG, 4095)`. -/
abbrev RxInv (s : State) : Prop :=
  s.rx.buf.map List.length = (if s.rx.state = .reassembling then some s.rx.expected.toNat else none)
    ∧ s.rx.received.toNat ≤ s.rx.expected.toNat ∧ s.rx.expected.toNat ≤ s.par.maxMsg
    ∧ s.rx.expected.toNat ≤ Config.ffDlMax

/-- The send invariants R33, with k = (tx.offset - 6) / 7 Consecutive frames sent. -/
abbrev TxInv (s : State) : Prop :=
  s.tx.offset.toNat ≤ s.tx.len.toNat ∧ s.tx.len.toNat ≤ s.par.maxMsg
    ∧ (s.tx.state = .active →
        8 ≤ s.tx.len.toNat ∧ s.tx.len.toNat ≤ Config.ffDlMax ∧ 6 ≤ s.tx.offset.toNat
        ∧ s.tx.offset.toNat < s.tx.len.toNat ∧ (s.tx.offset.toNat - 6) % 7 = 0
        ∧ s.tx.seq = BitVec.ofNat 4 (1 + (s.tx.offset.toNat - 6) / 7))

/-- The stores: `TXMSG` has `MAX_MSG` bytes; the payload of `RXMSG` holds nothing but 0x00 at and beyond
its length (R40), which is at most `MAX_MSG`. -/
abbrev StoreInv (s : State) : Prop :=
  MemoryIn s.par.maxMsg s.tx.msg ∧ MemoryIn s.rx.msg.length.toNat s.rx.msg.payload
    ∧ s.rx.msg.length.toNat ≤ s.par.maxMsg

/-- The address registers fit `ADDR_W` bits (R22, R30). -/
abbrev AddrInv (s : State) : Prop :=
  s.rx.srcAddr < 2 ^ s.par.addrW ∧ s.rx.replyAddr < 2 ^ s.par.addrW ∧ s.tx.addr < 2 ^ s.par.addrW
    ∧ s.rx.msg.address < 2 ^ s.par.addrW

/-- A legal state; the context is a value of `CTX` (R8, R21). -/
abbrev Inv (s : State) : Prop :=
  s.par.wf = true ∧ RxInv s ∧ TxInv s ∧ StoreInv s ∧ AddrInv s ∧ s.par.ctxOk s.cfg.context = true

/-- The number of completion notifications in an event list (60_exceptions.md R283). -/
def notifications : List Event → Nat
  | [] => 0
  | .xmit _ _ _ _ :: es => notifications es
  | .alloc _ :: es => notifications es
  | .free :: es => notifications es
  | .log _ _ :: es => notifications es
  | .notifyRxComplete _ :: es => notifications es + 1
  | .notifyTxSent _ _ :: es => notifications es + 1

/-- An instruction of the Receive Session: its two commands and the frames it consumes (R12, R91). -/
def receives (i : Instr) : Bool :=
  match i with
  | .sf _ _ _ _ => true
  | .ff _ _ _ _ => true
  | .cf _ _ _ _ => true
  | .rsvdType4to7 _ _ _ _ _ => true
  | .rsvdType8to15 _ _ _ _ _ => true
  | .rxOpen _ _ => true
  | .rxFrame _ _ => true
  | .fcCts _ _ _ _ _ => false
  | .fcWait _ _ _ _ _ => false
  | .fcOvflw _ _ _ _ _ => false
  | .fcRsvd3 _ _ _ _ _ => false
  | .fcRsvd4to7 _ _ _ _ _ _ => false
  | .fcRsvd8to15 _ _ _ _ _ _ => false
  | .txBegin _ _ _ => false
  | .txFc _ _ => false
  | .txContinue => false
  | .decType _ => false
  | .decSfDl _ => false
  | .decFfDl _ => false
  | .decCfSn _ => false
  | .decFcFs _ => false
  | .decFcBs _ => false
  | .decFcSt _ => false
  | .encSf _ => false
  | .encFf _ => false
  | .encCf _ => false
  | .encFc _ _ _ => false

/-- An instruction of the Send Session: its three commands and the frames it consumes (R12, R91). -/
def sends (i : Instr) : Bool :=
  match i with
  | .fcCts _ _ _ _ _ => true
  | .fcWait _ _ _ _ _ => true
  | .fcOvflw _ _ _ _ _ => true
  | .fcRsvd3 _ _ _ _ _ => true
  | .fcRsvd4to7 _ _ _ _ _ _ => true
  | .fcRsvd8to15 _ _ _ _ _ _ => true
  | .txBegin _ _ _ => true
  | .txFc _ _ => true
  | .txContinue => true
  | .sf _ _ _ _ => false
  | .ff _ _ _ _ => false
  | .cf _ _ _ _ => false
  | .rsvdType4to7 _ _ _ _ _ => false
  | .rsvdType8to15 _ _ _ _ _ => false
  | .rxOpen _ _ => false
  | .rxFrame _ _ => false
  | .decType _ => false
  | .decSfDl _ => false
  | .decFfDl _ => false
  | .decCfSn _ => false
  | .decFcFs _ => false
  | .decFcBs _ => false
  | .decFcSt _ => false
  | .encSf _ => false
  | .encFf _ => false
  | .encCf _ => false
  | .encFc _ _ _ => false

/-! ### Words the statements use -/

/-- `i` presents a Single frame to the Receive Session: SF, or RX_FRAME with type 0 (R173). -/
abbrev PresentsSingle (i : Instr) : Prop :=
  (∃ a dl t n, i = .sf a dl t n) ∨ ∃ a f, i = .rxFrame a f ∧ decType f = some 0

/-- `i` presents a First frame to the Receive Session: FF, or RX_FRAME with type 1 (R173). -/
abbrev PresentsFirst (i : Instr) : Prop :=
  (∃ a total t n, i = .ff a total t n) ∨ ∃ a f, i = .rxFrame a f ∧ decType f = some 1

/-- `i` presents a Consecutive frame to the Receive Session: CF, or RX_FRAME with type 2 (R173). -/
abbrev PresentsConsecutive (i : Instr) : Prop :=
  (∃ a sn t n, i = .cf a sn t n) ∨ ∃ a f, i = .rxFrame a f ∧ decType f = some 2

/-- The event with context `c` in place of the one it carries; only `Xmit` and `Log` carry one (R258). -/
def Event.withContext (c : Ctx) : Event → Event
  | .xmit a bytes len _ => .xmit a bytes len c
  | .alloc n => .alloc n
  | .free => .free
  | .log o _ => .log o c
  | .notifyRxComplete m => .notifyRxComplete m
  | .notifyTxSent a ok => .notifyTxSent a ok

/-- The state with context `c`, in the register and in the events of the last step. -/
def State.withContext (c : Ctx) (s : State) : State :=
  { s with cfg := { s.cfg with context := c }
           out := { s.out with events := s.out.events.map (Event.withContext c) } }

/-- What is handed to the transport for a frame whose used bytes are `u`: padded with 0x00 to 8 bytes
if `pad`, else exactly `u` (43_shim.md R251, 30_encoding.md R103). -/
def onWire (pad : Bool) (u : List Byte) : List Byte :=
  if pad then u ++ List.replicate (8 - u.length) 0 else u

/-- The `Xmit` event of a frame whose used bytes are `u` (R250). -/
def wireEvent (s : State) (a : Addr) (u : List Byte) : Event :=
  .xmit a (onWire s.cfg.pad u) (onWire s.cfg.pad u).length s.cfg.context

/-- The events of `Log(o)` (R254). -/
def logEvents (s : State) (o : OutcomeName) : List Event :=
  if s.cfg.logEn then [.log o s.cfg.context] else []

/-- Byte `k` of a presented frame. -/
def frameByte (f : Frame) (k : Nat) : Byte := f.bytes.toList.getD k 0

/-- Sender `S` and receiver `R` are in step: `R` reassembles the message `S` is sending, from the address
`S` sends at, and has received exactly the bytes `S` has sent (41_receive.md R180). -/
def InStep (S R : State) : Prop :=
  S.tx.state = .active ∧ R.rx.state = .reassembling ∧ R.rx.srcAddr = S.tx.addr
    ∧ R.rx.expected = S.tx.len ∧ R.rx.received = S.tx.offset
    ∧ ∃ b, R.rx.buf = some b ∧ ∀ k < S.tx.offset.toNat, b[k]? = some (Memory.get S.tx.msg k)

/-- `k` TX_CONTINUE commands one after another; nothing if one of them does not answer a next state. -/
def pump : Nat → State → Option State
  | 0, s => some s
  | k + 1, s =>
    match exec .txContinue s with
    | .next t => pump k t
    | .fault _ => none
    | .refused _ => none

/-- `n` Consecutive frames relayed: the sender `S` transmits each by TX_CONTINUE, the receiver `R` is given
it by RX_FRAME, and the two end in `S'` and `R'` (41_receive.md R180(c)). -/
def Relayed : Nat → State → State → State → State → Prop
  | 0, S, R, S', R' => S' = S ∧ R' = R
  | n + 1, S, R, S', R' =>
    ∃ S₁ R₁ f, exec .txContinue S = .next S₁ ∧
      .xmit S.tx.addr (f.bytes.toList.take f.dlen.val) f.dlen.val S.cfg.context ∈ S₁.out.events ∧
      exec (.rxFrame S.tx.addr f) R = .next R₁ ∧ Relayed n S₁ R₁ S' R'

end Sys2Proof.Machine
end

