-- ==== Sys2Proof/Certificates/Slice0/Obligations.lean ====
section
/-! DEFINITION. The statements for the provers, each from the numbered rules of spec/. -/

open Sys2Proof Sys2Proof.Machine

/-! ### The step, reset, decoding -/

/-- A packet at the head of the inbox that decodes to an instruction with operands in range is executed:
the step is that instruction's execution on the state without the request. A packet the decoder rejects
and an operand out of range are refused (R12, R107; U16 to U18). The packet and the refusals are the
model's form of the port, log entries 10, 11 and 19. -/
def Obligations.StepRunsTheDecodedInstruction : Prop :=
  ∀ (s : State) (p : Packet) (rest : List Request), s.inbox = .packet p :: rest →
    (∀ i, decode p = .ok i → i.wf s.par = true → step s = exec i { s with inbox := rest }) ∧
    (∀ i, decode p = .ok i → i.wf s.par = false → step s = .refused .operandOutOfRange) ∧
    (∀ e, decode p = .error e → step s = .refused (.undecodable e))

/-- R50: the values the spec gives the registers after reset, for every choice of the parameters. The
reset event is the spec's decision D5. -/
def Obligations.ResetLeavesTheStatedValues : Prop :=
  ∀ p : Params, let s := State.resetWith p
    s.par = p ∧ s.rx.state = .closed ∧ s.tx.state = .idle ∧
    rxIsComplete s = false ∧ rxIsSuccessful s = false ∧ txIsComplete s = false ∧
    txIsSuccessful s = false ∧ rxBufLive s = false ∧ s.rx.expected = 0 ∧ s.rx.received = 0 ∧
    s.tx.len = 0 ∧ s.tx.offset = 0 ∧ s.tx.seq = 0 ∧ s.tx.toSend = .count 0 ∧
    s.cfg.pad = false ∧ s.cfg.logEn = false

/-- R310: a hardware reset, whatever is in progress, leaves both sessions without a transfer, clears the
flags and the configuration bits, forgets a live buffer without `Free`, and emits no event. The reset is
the spec's decision D5; that parameters and further requests stay is the model's, log entry 21. -/
def Obligations.HardwareResetForgetsEverythingSilently : Prop :=
  ∀ (s : State) (rest : List Request), s.inbox = .reset :: rest →
    ∃ t, step s = .next t ∧ t.rx.state = .closed ∧ t.tx.state = .idle ∧
      rxIsComplete t = false ∧ rxIsSuccessful t = false ∧ txIsComplete t = false ∧
      txIsSuccessful t = false ∧ t.rx.buf = none ∧ t.rx.expected = 0 ∧ t.rx.received = 0 ∧
      t.tx.len = 0 ∧ t.tx.offset = 0 ∧ t.tx.seq = 0 ∧ t.tx.toSend = .count 0 ∧
      t.cfg.pad = false ∧ t.cfg.logEn = false ∧ t.out.events = [] ∧ t.par = s.par ∧ t.inbox = rest

/-- R21, R322: between commands the host writes one configuration register; no other register of the
block changes and nothing is emitted. A context that is no value of `CTX` cannot be written (log entry
3). The request that carries the write is the model's, log entry 21.
-/
def Obligations.ConfigurationWriteChangesOneRegister : Prop :=
  ∀ (s : State) (rest : List Request) (b : Bool) (c : Ctx),
    (s.inbox = .writePad b :: rest →
      step s = .next { s with inbox := rest, cfg := { s.cfg with pad := b }, out := Output.blank }) ∧
    (s.inbox = .writeLogEn b :: rest →
      step s = .next { s with inbox := rest, cfg := { s.cfg with logEn := b }, out := Output.blank }) ∧
    (s.inbox = .writeContext c :: rest →
      (s.par.ctxOk c = true →
        step s = .next { s with inbox := rest, cfg := { s.cfg with context := c }, out := Output.blank }) ∧
      (s.par.ctxOk c = false → step s = .refused .operandOutOfRange))

/-- R107, U17: a select code 0b101 to 0b111 is not a command, and the step refuses it. The codes are the
spec's decision D4; the refusal is the model's, log entry 19. -/
def Obligations.UnissuedSelectCodesAreRefused : Prop :=
  ∀ (s : State) (p : Packet) (rest : List Request) (c : BitVec 3), s.inbox = .packet p :: rest →
    p.sel = .command c → 5 ≤ c.toNat → step s = .refused (.undecodable .noSuchCommand)

/-- Frames written out byte by byte decode, as R91 to R96, R106 and R107 lay them out, to their formats
and fields. Sources: the First and the Consecutive frame are V1's, the Continue is R138's example, the
Overflow is TX19's, the type-4 frame is RX24's, the select code is R107's; the Single frame is the
first three bytes of P2's, and 0x3F0000 is this model's own, a status of R101. The word's layout is
R106's; address 0 and the code as one byte are the model's, log entry 14. -/
def Obligations.SpecFramesDecodeToTheirFields : Prop :=
  decodeTableWord 24 0x03AABB = some (.sf 0 3 ⟨0xAA, 0xBB, 0, 0, 0, 0, 0⟩ 3) ∧
  decodeTableWord 64 0x100A010203040506 = some (.ff 0 10 ⟨1, 2, 3, 4, 5, 6⟩ 8) ∧
  decodeTableWord 40 0x210708090A = some (.cf 0 1 ⟨7, 8, 9, 10, 0, 0, 0⟩ 5) ∧
  decodeTableWord 24 0x300814 = some (.fcCts 0 8 0x14 ⟨0, 0, 0, 0, 0⟩ 3) ∧
  decodeTableWord 24 0x320000 = some (.fcOvflw 0 0 0 ⟨0, 0, 0, 0, 0⟩ 3) ∧
  decodeTableWord 24 0x3F0000 = some (.fcRsvd8to15 0 7 0 0 ⟨0, 0, 0, 0, 0⟩ 3) ∧
  decodeTableWord 16 0x4001 = some (.rsvdType4to7 0 0 0 ⟨1, 0, 0, 0, 0, 0, 0⟩ 2) ∧
  decodeTableWord 8 0b100 = some .txContinue

/-- Encoding drops no bit: the decoder gives every well-formed instruction back (R91 to R107). The
operand lines and the codec function numbers are the model's, log entries 11 and 12. -/
def Obligations.DecodeOfEncodeIsTheInstruction : Prop :=
  ∀ (p : Params) (i : Instr), i.wf p = true → decode (encode i) = .ok i

/-- Every frame is consumed by the session R91 names: a delivered frame that is not flow control does
what RX_FRAME does with it, a flow-control frame what TX_FC does with it (R91, R173, R213; that a
delivered frame is an instruction is the model's, log entry 13). -/
def Obligations.DeliveredFramesDoWhatTheirCommandDoes : Prop :=
  ∀ (a : Addr) (f : Frame) (s : State), 1 ≤ f.dlen.val →
    (decType f ≠ some 3 → exec (decodeFrame a f) s = exec (.rxFrame a f) s) ∧
    (decType f = some 3 → exec (decodeFrame a f) s = exec (.txFc a f) s)

/-! ### Receive Session -/

/-- R170: RX_OPEN, in every state. Freeing an abandoned buffer is the spec's decision D19. -/
def Obligations.RxOpenConstructsAnIdleSession : Prop :=
  ∀ (s : State) (a r : Addr),
    exec (.rxOpen a r) s = .next
      { s with
        rx := { s.rx with state := .awaitFf, srcAddr := a, replyAddr := r, expected := 0, received := 0,
                          buf := none }
        out := { outcome := .ok, result := .none,
                 events := if rxBufLive s then [.free] else [] } }

/-- R171, R172, R279: RX_FRAME ignores, in this order of naming, a frame to a closed session, an empty
frame, and a frame from another address: `IgnoreMsg`, no state change, no event. The closed session and
the fields of `IgnoreMsg` are the spec's decisions D5, D20 and D22. -/
def Obligations.RxFrameEntryChecksIgnore : Prop :=
  ∀ (s : State) (a : Addr) (f : Frame) (m : Message),
    m.address = a → m.payload = [] → m.length = 0 → m.isMultiFrame = false → m.isComplete = false →
    (s.rx.state = .closed → exec (.rxFrame a f) s =
      .next { s with out := { outcome := .rxIgnClosed, result := .message m, events := [] } }) ∧
    (s.rx.state ≠ .closed → f.dlen = 0 → exec (.rxFrame a f) s =
      .next { s with out := { outcome := .rxIgnEmpty, result := .message m, events := [] } }) ∧
    (s.rx.state ≠ .closed → f.dlen ≠ 0 → a ≠ s.rx.srcAddr → exec (.rxFrame a f) s =
      .next { s with out := { outcome := .rxIgnAddr, result := .message m, events := [] } })

/-- R172: `IgnoreMsg(a)`; and the incomplete multi-frame Message of R175 and R176. The fields are the
spec's decision D20. -/
def Obligations.IncompleteMessagesCarryNothing : Prop :=
  ∀ a : Addr,
    (ignoreMsg a).address = a ∧ (ignoreMsg a).length = 0 ∧ (ignoreMsg a).isMultiFrame = false ∧
    (ignoreMsg a).isComplete = false ∧ (∀ k, Memory.get (ignoreMsg a).payload k = 0) ∧
    (partialMsg a).address = a ∧ (partialMsg a).length = 0 ∧ (partialMsg a).isMultiFrame = true ∧
    (partialMsg a).isComplete = false ∧ (∀ k, Memory.get (partialMsg a).payload k = 0)

/-- R174: a Single frame in AWAIT_FF, as RX_FRAME and as a delivered frame. Malformed: ignored. Else the
message is the frame's payload, the session is COMPLETE, one notification. The malformed case is the
spec's decision D10. That a delivered frame is an instruction is the model's, log entry 13. -/
def Obligations.SingleFrameCompletesInOneStep : Prop :=
  ∀ (s : State) (dl : Nibble) (tail : Tail1) (n : Fin 9),
    s.rx.state = .awaitFf → 1 ≤ n.val →
    let f := frameSf dl tail n
    let a := s.rx.srcAddr
    (7 < dl.toNat ∨ n.val - 1 < dl.toNat →
      let t := { s with out := { outcome := .rxIgnMalformed, result := .message (ignoreMsg a),
                                 events := [] } }
      exec (.sf a dl tail n) s = .next t ∧ exec (.rxFrame a f) s = .next t) ∧
    (dl.toNat ≤ 7 → dl.toNat ≤ n.val - 1 →
      ∃ m : Message, m.address = a ∧ m.length.toNat = dl.toNat ∧ m.isMultiFrame = false ∧
        m.isComplete = true ∧
        (∀ k, Memory.get m.payload k = if k < dl.toNat then frameByte f (1 + k) else 0) ∧
        let t := { s with rx := { s.rx with state := .complete, msg := m }
                          out := { outcome := .ok, result := .message m,
                                   events := [.notifyRxComplete m] } }
        exec (.sf a dl tail n) s = .next t ∧ exec (.rxFrame a f) s = .next t)

/-- R175: a First frame in AWAIT_FF, as RX_FRAME and as a delivered frame: malformed, too long (before
any allocation), refused by the allocator, or accepted. An accepted frame fills the first bytes of a
buffer of exactly the declared length and is answered by one flow-control frame, whose own answer
changes nothing. The copy count, the malformed case, the grant and its discarded answer are the spec's
decisions D9, D10, D12 and D13; the list of answers is the model's, log entry 8. That a delivered frame
is an instruction is the model's, log entry 13. -/
def Obligations.FirstFrameOpensReassembly : Prop :=
  ∀ (s : State) (total : BitVec 12) (tail : Tail2) (n : Fin 9),
    s.rx.state = .awaitFf → 1 ≤ n.val →
    let f := frameFf total tail n
    let a := s.rx.srcAddr
    let both := fun t : State => exec (.ff a total tail n) s = .next t ∧ exec (.rxFrame a f) s = .next t
    (n.val = 1 →
      both { s with out := { outcome := .rxIgnMalformed, result := .message (ignoreMsg a),
                             events := [] } }) ∧
    (2 ≤ n.val → s.par.maxMsg < total.toNat →
      both { s with out := { outcome := .rxRejTooLong, result := .message (ignoreMsg a),
                             events := logEvents s .rxRejTooLong } }) ∧
    (2 ≤ n.val → total.toNat ≤ s.par.maxMsg → nextAnswer s = false →
      both { s with answers := s.answers.tail, asked := s.asked + 1,
                    out := { outcome := .rxRejAlloc, result := .message (ignoreMsg a),
                             events := .alloc total.toNat :: logEvents s .rxRejAlloc } }) ∧
    (2 ≤ n.val → total.toNat ≤ s.par.maxMsg → nextAnswer s = true →
      let got := min (n.val - 2) total.toNat
      ∃ b : List Byte, b.length = total.toNat ∧ (∀ k < got, b[k]? = some (frameByte f (2 + k))) ∧
        both { s with
          rx := { s.rx with state := .reassembling, expected := toLen total.toNat, received := toLen got,
                            buf := some b }
          answers := s.answers.tail.tail
          asked := s.asked + 2
          out := { outcome := .ok, result := .message (partialMsg a),
                   events := [.alloc total.toNat, wireEvent s s.rx.replyAddr [0x30, 0, 0]] } })

/-- R176: a Consecutive frame in REASSEMBLING, as RX_FRAME and as a delivered frame, whatever its
sequence number. Its bytes, at most those missing, are appended; the buffer is then exactly full, or the
final frame fell short, or the transfer goes on. The copy count, the unread sequence number and the
silent failure are the spec's decisions D9, D11 and D14. That a delivered frame is an instruction is the
model's, log entry 13. -/
def Obligations.ConsecutiveFrameAppendsItsBytes : Prop :=
  ∀ (s : State) (sn : Nibble) (tail : Tail1) (n : Fin 9) (b : List Byte),
    s.rx.state = .reassembling → s.rx.buf = some b → b.length = s.rx.expected.toNat →
    s.rx.received.toNat ≤ s.rx.expected.toNat → 1 ≤ n.val →
    let f := frameCf sn tail n
    let a := s.rx.srcAddr
    let both := fun t : State => exec (.cf a sn tail n) s = .next t ∧ exec (.rxFrame a f) s = .next t
    let missing := s.rx.expected.toNat - s.rx.received.toNat
    let got := min (n.val - 1) missing
    ∃ b' : List Byte, b'.length = b.length ∧
      (∀ k, b'[k]? = if s.rx.received.toNat ≤ k ∧ k < s.rx.received.toNat + got
                     then some (frameByte f (1 + (k - s.rx.received.toNat))) else b[k]?) ∧
      (got = missing →
        ∃ m : Message, m.address = a ∧ m.length = s.rx.expected ∧ m.isMultiFrame = true ∧
          m.isComplete = true ∧ (∀ k, Memory.get m.payload k = b'.getD k 0) ∧
          both { s with
            rx := { s.rx with state := .complete, received := s.rx.expected, buf := none, msg := m }
            out := { outcome := .ok, result := .message m,
                     events := [.free, .notifyRxComplete m] } }) ∧
      (got ≠ missing → missing ≤ 7 →
        both { s with
          rx := { s.rx with state := .failed, received := toLen (s.rx.received.toNat + got), buf := none }
          out := { outcome := .rxFailReassembly, result := .message (partialMsg a),
                   events := .free :: logEvents s .rxFailReassembly } }) ∧
      (got ≠ missing → 7 < missing →
        both { s with
          rx := { s.rx with received := toLen (s.rx.received.toNat + got), buf := some b' }
          out := { outcome := .ok, result := .message (partialMsg a), events := [] } })

/-- R171, R177, R279: RX_FRAME with flow control or an unrecognized type is ignored in any state:
`IgnoreMsg`, nothing written, nothing emitted, nothing logged. The outcome is `RX_IGN_TYPE` (R177); for
a closed session it is `RX_IGN_CLOSED`, which is checked first (R171, R279: the spec's decisions D5
and D22, log entry 23). -/
def Obligations.OtherTypesAreIgnoredByReceive : Prop :=
  ∀ (s : State) (f : Frame), 1 ≤ f.dlen.val → 3 ≤ (hiNibble f.bytes.b0).toNat →
    exec (.rxFrame s.rx.srcAddr f) s = .next { s with
      out := { outcome := if s.rx.state = .closed then .rxIgnClosed else .rxIgnType,
               result := .message (ignoreMsg s.rx.srcAddr), events := [] } }

/-- R100, R177: a delivered frame of an unrecognized type, in any open state of the session, is ignored
(that a delivered frame is an instruction is the model's, log entry 13). -/
def Obligations.UnrecognizedTypesChangeNothing : Prop :=
  ∀ (s : State) (low : Nibble) (tail : Tail1) (n : Fin 9), s.rx.state ≠ .closed → 1 ≤ n.val →
    let a := s.rx.srcAddr
    let t := { s with out := { outcome := .rxIgnType, result := .message (ignoreMsg a), events := [] } }
    (∀ tt : BitVec 2, exec (.rsvdType4to7 a tt low tail n) s = .next t) ∧
    (∀ tt : BitVec 3, exec (.rsvdType8to15 a tt low tail n) s = .next t)

/-- R178: a Single or First frame outside AWAIT_FF and a Consecutive frame outside REASSEMBLING, in an
open session: ignored, nothing written, nothing emitted, a live buffer untouched. Gating by state is the
spec's decision D7. That a delivered frame is an instruction is the model's, log entry 13. -/
def Obligations.FramesWithoutTransitionAreIgnored : Prop :=
  ∀ (s : State), s.rx.state ≠ .closed →
    let a := s.rx.srcAddr
    let t := { s with out := { outcome := .rxIgnState, result := .message (ignoreMsg a), events := [] } }
    (∀ (dl : Nibble) (tail : Tail1) (n : Fin 9), 1 ≤ n.val → s.rx.state ≠ .awaitFf →
      exec (.sf a dl tail n) s = .next t ∧ exec (.rxFrame a (frameSf dl tail n)) s = .next t) ∧
    (∀ (total : BitVec 12) (tail : Tail2) (n : Fin 9), 1 ≤ n.val → s.rx.state ≠ .awaitFf →
      exec (.ff a total tail n) s = .next t ∧ exec (.rxFrame a (frameFf total tail n)) s = .next t) ∧
    (∀ (sn : Nibble) (tail : Tail1) (n : Fin 9), 1 ≤ n.val → s.rx.state ≠ .reassembling →
      exec (.cf a sn tail n) s = .next t ∧ exec (.rxFrame a (frameCf sn tail n)) s = .next t)

/-! ### Send Session -/

/-- R210, R212: TX_BEGIN of at most 7 bytes, in every state: one Single frame of exactly the message, one
notification, COMPLETE or FAILED as the transport answers. Of `TXMSG` exactly the first `length` bytes
are written. That a transfer in progress is abandoned without a notification is the spec's decision
D19, and the values of the progress counters after a failure are its decision D27 (log entry 23). -/
def Obligations.ShortMessageIsOneSingleFrame : Prop :=
  ∀ (s : State) (a : Addr) (d : List Byte) (len : Nat),
    len ≤ 7 → len ≤ d.length → len ≤ s.par.maxMsg → s.tx.msg.wf = true →
    ∃ mem : Memory, (∀ j, Memory.get mem j = if j < len then d.getD j 0 else Memory.get s.tx.msg j) ∧
      let u := BitVec.ofNat 8 len :: d.take len
      (nextAnswer s = true → exec (.txBegin a d len) s = .next { s with
          tx := { state := .complete, addr := a, len := toLen len, msg := mem, offset := toLen len, seq := 1,
                  toSend := .count 0 }
          answers := s.answers.tail
          asked := s.asked + 1
          out := { outcome := .ok, result := .flags true true,
                   events := [wireEvent s a u, .notifyTxSent a true] } }) ∧
      (nextAnswer s = false → exec (.txBegin a d len) s = .next { s with
          tx := { state := .failed, addr := a, len := toLen len, msg := mem, offset := 0, seq := 1,
                  toSend := .count 0 }
          answers := s.answers.tail
          asked := s.asked + 1
          out := { outcome := .txErrXmit, result := .flags true false,
                   events := [wireEvent s a u, .notifyTxSent a false] } })

/-- R211, R212: TX_BEGIN of 8 bytes or more, in every state: a First frame with the total length and the
first six bytes, then ACTIVE and paused; FAILED with a notification if the transport refuses it, or,
without any transmission, if the length does not fit 12 bits. The notification when the first frame
fails is the spec's decision D34. -/
def Obligations.LongMessageStartsWithAFirstFrame : Prop :=
  ∀ (s : State) (a : Addr) (d : List Byte) (len : Nat),
    8 ≤ len → len ≤ d.length → len ≤ s.par.maxMsg → s.par.maxMsg ≤ 65535 → s.tx.msg.wf = true →
    ∃ mem : Memory, (∀ j, Memory.get mem j = if j < len then d.getD j 0 else Memory.get s.tx.msg j) ∧
      let u := BitVec.ofNat 8 (16 + len / 256) :: BitVec.ofNat 8 (len % 256) :: d.take 6
      (len ≤ 4095 → nextAnswer s = true → exec (.txBegin a d len) s = .next { s with
          tx := { state := .active, addr := a, len := toLen len, msg := mem, offset := 6, seq := 1,
                  toSend := .count 0 }
          answers := s.answers.tail
          asked := s.asked + 1
          out := { outcome := .ok, result := .flags false false, events := [wireEvent s a u] } }) ∧
      (len ≤ 4095 → nextAnswer s = false → exec (.txBegin a d len) s = .next { s with
          tx := { state := .failed, addr := a, len := toLen len, msg := mem, offset := 0, seq := 1,
                  toSend := .count 0 }
          answers := s.answers.tail
          asked := s.asked + 1
          out := { outcome := .txErrXmit, result := .flags true false,
                   events := [wireEvent s a u, .notifyTxSent a false] } }) ∧
      (4095 < len → exec (.txBegin a d len) s = .next { s with
          tx := { state := .failed, addr := a, len := toLen len, msg := mem, offset := 0, seq := 1,
                  toSend := .count 0 }
          out := { outcome := .txErrEncode, result := .flags true false,
                   events := [.notifyTxSent a false] } })

/-- R218: a flow-control frame, or any frame given to TX_FC, while no transfer is active: false, nothing
written, nothing emitted, nothing logged. The rule is the spec's decision D8. That a delivered frame is
an instruction is the model's, log entry 13. -/
def Obligations.FlowControlWithoutATransferIsIgnored : Prop :=
  ∀ (s : State) (a : Addr), s.tx.state ≠ .active →
    let t := { s with out := { outcome := .txFcIgnState, result := .bool false, events := [] } }
    (∀ f : Frame, exec (.txFc a f) s = .next t) ∧
    (∀ (bs st : Byte) (tail : Tail3) (n : Fin 9),
      exec (.fcCts a bs st tail n) s = .next t ∧ exec (.fcWait a bs st tail n) s = .next t ∧
      exec (.fcOvflw a bs st tail n) s = .next t ∧ exec (.fcRsvd3 a bs st tail n) s = .next t ∧
      (∀ ss, exec (.fcRsvd4to7 a ss bs st tail n) s = .next t) ∧
      (∀ ss, exec (.fcRsvd8to15 a ss bs st tail n) s = .next t))

/-- R213, R276: during a transfer, a frame shorter than `FC_MIN_LEN` or of another type than flow
control: false, logged, no state change. `FC_MIN_LEN` is the spec's decision D16. That a delivered frame
is an instruction is the model's, log entry 13. -/
def Obligations.MalformedFlowControlIsRejected : Prop :=
  ∀ (s : State) (a : Addr), s.tx.state = .active →
    let t := { s with out := { outcome := .txFcRejFormat, result := .bool false,
                               events := logEvents s .txFcRejFormat } }
    (∀ f : Frame, (f.dlen.val < s.par.fcMinLen ∨ f.dlen = 0 ∨ (hiNibble f.bytes.b0).toNat ≠ 3) →
      exec (.txFc a f) s = .next t) ∧
    (∀ (bs st : Byte) (tail : Tail3) (n : Fin 9), n.val < s.par.fcMinLen →
      exec (.fcCts a bs st tail n) s = .next t ∧ exec (.fcWait a bs st tail n) s = .next t ∧
      exec (.fcOvflw a bs st tail n) s = .next t ∧ exec (.fcRsvd3 a bs st tail n) s = .next t ∧
      (∀ ss, exec (.fcRsvd4to7 a ss bs st tail n) s = .next t) ∧
      (∀ ss, exec (.fcRsvd8to15 a ss bs st tail n) s = .next t))

/-- R214: TX_FC with status Continue sets the permitted count from the block size, 0 meaning unlimited,
whatever the count was; nothing is transmitted (that the separation time is not kept is the spec's
decision D15). -/
def Obligations.ContinueSetsThePermittedCount : Prop :=
  ∀ (s : State) (a : Addr) (bs st : Byte) (tail : Tail3) (n : Fin 9),
    s.tx.state = .active → s.par.fcMinLen ≤ n.val → 2 ≤ s.par.fcMinLen →
    exec (.txFc a (frameFc 0 bs st tail n)) s = .next { s with
      tx := { s.tx with toSend := if bs = 0 then .unlimited else .count bs }
      out := { outcome := .ok, result := .bool true, events := [] } }

/-- R215: TX_FC with status Wait sets the permitted count to zero, whatever it was, and returns true. -/
def Obligations.WaitPausesTheTransfer : Prop :=
  ∀ (s : State) (a : Addr) (bs st : Byte) (tail : Tail3) (n : Fin 9),
    s.tx.state = .active → s.par.fcMinLen ≤ n.val → 2 ≤ s.par.fcMinLen →
    exec (.txFc a (frameFc 1 bs st tail n)) s = .next { s with
      tx := { s.tx with toSend := .count 0 }
      out := { outcome := .ok, result := .bool true, events := [] } }

/-- R216: TX_FC with status Overflow ends the transfer as failed, with one notification, and returns
true. -/
def Obligations.OverflowFailsTheTransfer : Prop :=
  ∀ (s : State) (a : Addr) (bs st : Byte) (tail : Tail3) (n : Fin 9),
    s.tx.state = .active → s.par.fcMinLen ≤ n.val → 2 ≤ s.par.fcMinLen →
    exec (.txFc a (frameFc 2 bs st tail n)) s = .next { s with
      tx := { s.tx with state := .failed }
      out := { outcome := .txFcOverflow, result := .bool true,
               events := [.notifyTxSent s.tx.addr false] } }

/-- R217: TX_FC with any other status is rejected: false, logged, no register written. -/
def Obligations.UnknownStatusIsRejected : Prop :=
  ∀ (s : State) (a : Addr) (fs : Nibble) (bs st : Byte) (tail : Tail3) (n : Fin 9),
    s.tx.state = .active → s.par.fcMinLen ≤ n.val → 2 ≤ s.par.fcMinLen → 3 ≤ fs.toNat →
    exec (.txFc a (frameFc fs bs st tail n)) s = .next { s with
      out := { outcome := .txFcRejStatus, result := .bool false, events := logEvents s .txFcRejStatus } }

/-- R213 to R217 for a flow-control frame delivered during a transfer: Continue, Wait, Overflow and the
reserved statuses (that a delivered frame is an instruction is the model's, log entry 13). -/
def Obligations.DeliveredFlowControlDrivesTheTransfer : Prop :=
  ∀ (s : State) (a : Addr) (bs st : Byte) (tail : Tail3) (n : Fin 9),
    s.tx.state = .active → s.par.fcMinLen ≤ n.val → 2 ≤ s.par.fcMinLen →
    let good := { outcome := .ok, result := .bool true, events := [] : Output }
    let bad := { s with out := { outcome := .txFcRejStatus, result := .bool false,
                                 events := logEvents s .txFcRejStatus } }
    exec (.fcCts a bs st tail n) s = .next { s with
      tx := { s.tx with toSend := if bs = 0 then .unlimited else .count bs }, out := good } ∧
    exec (.fcWait a bs st tail n) s = .next { s with
      tx := { s.tx with toSend := .count 0 }, out := good } ∧
    exec (.fcOvflw a bs st tail n) s = .next { s with
      tx := { s.tx with state := .failed }
      out := { outcome := .txFcOverflow, result := .bool true,
               events := [.notifyTxSent s.tx.addr false] } } ∧
    exec (.fcRsvd3 a bs st tail n) s = .next bad ∧
    (∀ ss, exec (.fcRsvd4to7 a ss bs st tail n) s = .next bad) ∧
    (∀ ss, exec (.fcRsvd8to15 a ss bs st tail n) s = .next bad)

/-- R219 step 2, R220: TX_CONTINUE while no transfer is active or while paused: true, nothing written,
nothing emitted. For a session without a transfer this is the spec's decision D8. -/
def Obligations.NothingToSendIsANoOp : Prop :=
  ∀ s : State, (s.tx.state ≠ .active ∨ s.tx.toSend = .count 0) →
    exec .txContinue s =
      .next { s with out := { outcome := .ok, result := .bool true, events := [] } }

/-- R219: TX_CONTINUE with frames permitted sends exactly one Consecutive frame with the next at most
seven unsent bytes. Accepted: sequence number, offset and permitted count advance, and after the last
byte the session is COMPLETE with one notification. Refused: FAILED with one notification, the counters
kept. That the counters are kept on failure is the spec's decision D27. -/
def Obligations.ContinueSendsOneConsecutiveFrame : Prop :=
  ∀ s : State, s.tx.state = .active → s.tx.toSend ≠ .count 0 →
    s.tx.offset.toNat < s.tx.len.toNat → s.tx.len.toNat ≤ s.par.maxMsg →
    let n := min 7 (s.tx.len.toNat - s.tx.offset.toNat)
    let u := BitVec.ofNat 8 (32 + s.tx.seq.toNat) ::
      (List.range n).map (fun k => Memory.get s.tx.msg (s.tx.offset.toNat + k))
    (nextAnswer s = true → exec .txContinue s = .next { s with
        tx := { s.tx with
          state := if s.tx.offset.toNat + n = s.tx.len.toNat then .complete else .active
          seq := s.tx.seq + 1
          offset := toLen (s.tx.offset.toNat + n)
          toSend := match s.tx.toSend with
            | .unlimited => .unlimited
            | .count k => .count (k - 1) }
        answers := s.answers.tail
        asked := s.asked + 1
        out := { outcome := .ok, result := .bool true,
                 events := wireEvent s s.tx.addr u ::
                   (if s.tx.offset.toNat + n = s.tx.len.toNat then [.notifyTxSent s.tx.addr true] else []) } }) ∧
    (nextAnswer s = false → exec .txContinue s = .next { s with
        tx := { s.tx with state := .failed }
        answers := s.answers.tail
        asked := s.asked + 1
        out := { outcome := .txErrXmit, result := .bool false,
                 events := [wireEvent s s.tx.addr u, .notifyTxSent s.tx.addr false] } })

/-! ### Frame Codec -/

/-- R131, R133 to R139: each decode function reads its field of the bytes that are valid, whatever the
type nibble says, and nothing else happens. `absent` is the spec's decision D24; that the functions are
instructions with outcome OK is the model's, log entries 12 and 24. -/
def Obligations.DecodersReadTheirField : Prop :=
  ∀ (s : State) (f : Frame),
    let gives := fun (i : Instr) (v : Option Nat) =>
      exec i s = .next { s with out := { outcome := .ok, result := .field v, events := [] } }
    let b0 := f.bytes.b0.toNat
    gives (.decType f) (if 1 ≤ f.dlen.val then some (b0 / 16) else none) ∧
    gives (.decSfDl f) (if 1 ≤ f.dlen.val then some (b0 % 16) else none) ∧
    gives (.decFfDl f) (if 2 ≤ f.dlen.val then some (256 * (b0 % 16) + f.bytes.b1.toNat) else none) ∧
    gives (.decCfSn f) (if 1 ≤ f.dlen.val then some (b0 % 16) else none) ∧
    gives (.decFcFs f) (if 1 ≤ f.dlen.val then some (b0 % 16) else none) ∧
    gives (.decFcBs f) (if 2 ≤ f.dlen.val then some f.bytes.b1.toNat else none) ∧
    gives (.decFcSt f) (if 3 ≤ f.dlen.val then some f.bytes.b2.toNat else none)

/-- R141 to R144: each encode function builds its header in a zeroed buffer if every argument fits its
field, else answers `EncodeRange`, and nothing else happens. The 16-bit arguments are the spec's
decision D24; that the functions are instructions with outcome OK is the model's, log entries 12 and 24.
-/
def Obligations.EncodersBuildTheirHeader : Prop :=
  ∀ (s : State) (x y z : Half),
    let gives := fun (i : Instr) (r : EncResult) =>
      exec i s = .next { s with out := { outcome := .ok, result := .encoded r, events := [] } }
    let frame := fun (b0 b1 b2 : Nat) =>
      EncResult.ok ⟨BitVec.ofNat 8 b0, BitVec.ofNat 8 b1, BitVec.ofNat 8 b2, 0, 0, 0, 0, 0⟩
    gives (.encSf x) (if x.toNat ≤ 15 then frame x.toNat 0 0 else .encodeRange) ∧
    gives (.encFf x) (if x.toNat ≤ 4095 then frame (16 + x.toNat / 256) (x.toNat % 256) 0
                      else .encodeRange) ∧
    gives (.encCf x) (if x.toNat ≤ 15 then frame (32 + x.toNat) 0 0 else .encodeRange) ∧
    gives (.encFc x y z) (if x.toNat ≤ 15 ∧ y.toNat ≤ 255 ∧ z.toNat ≤ 255
                          then frame (48 + x.toNat) y.toNat z.toNat else .encodeRange)

/-- R146: the round-trip laws of the codec, in both directions. -/
def Obligations.CodecRoundTrips : Prop :=
  (∀ dl : Half, dl.toNat ≤ 15 → ∃ F, encSf dl = .ok F ∧
    decType ⟨F, 8⟩ = some 0 ∧ decSfDl ⟨F, 8⟩ = some dl.toNat) ∧
  (∀ total : Half, total.toNat ≤ 4095 → ∃ F, encFf total = .ok F ∧
    decType ⟨F, 8⟩ = some 1 ∧ decFfDl ⟨F, 8⟩ = some total.toNat) ∧
  (∀ sn : Half, sn.toNat ≤ 15 → ∃ F, encCf sn = .ok F ∧
    decType ⟨F, 8⟩ = some 2 ∧ decCfSn ⟨F, 8⟩ = some sn.toNat) ∧
  (∀ fs bs st : Half, fs.toNat ≤ 15 → bs.toNat ≤ 255 → st.toNat ≤ 255 → ∃ F,
    encFc fs bs st = .ok F ∧ decType ⟨F, 8⟩ = some 3 ∧ decFcFs ⟨F, 8⟩ = some fs.toNat ∧
    decFcBs ⟨F, 8⟩ = some bs.toNat ∧ decFcSt ⟨F, 8⟩ = some st.toNat) ∧
  (∀ f : Frame, 3 ≤ f.dlen.val →
    (decType f = some 0 → ∃ dl F, decSfDl f = some dl ∧ encSf (BitVec.ofNat 16 dl) = .ok F ∧
      F.b0 = f.bytes.b0) ∧
    (decType f = some 1 → ∃ total F, decFfDl f = some total ∧
      encFf (BitVec.ofNat 16 total) = .ok F ∧ F.b0 = f.bytes.b0 ∧ F.b1 = f.bytes.b1) ∧
    (decType f = some 2 → ∃ sn F, decCfSn f = some sn ∧ encCf (BitVec.ofNat 16 sn) = .ok F ∧
      F.b0 = f.bytes.b0) ∧
    (decType f = some 3 → ∃ fs bs st F, decFcFs f = some fs ∧ decFcBs f = some bs ∧
      decFcSt f = some st ∧
      encFc (BitVec.ofNat 16 fs) (BitVec.ofNat 16 bs) (BitVec.ofNat 16 st) = .ok F ∧
      F.b0 = f.bytes.b0 ∧ F.b1 = f.bytes.b1 ∧ F.b2 = f.bytes.b2))

/-! ### The whole machine -/

/-- At reset every invariant of R25 and R33 holds, for every choice of parameters in range. The reset
values the spec leaves open are the model's, log entries 1, 4 and 5. -/
def Obligations.ResetStateIsLegal : Prop :=
  Inv State.reset ∧ ∀ p : Params, p.wf = true → Inv (State.resetWith p)

/-- R25: the receive invariants after every command, from every legal state: a buffer is live exactly
while reassembling, it has exactly `rx.expected` bytes, `rx.received <= rx.expected <= MAX_MSG`,
`rx.expected <= 4095`, and only RX_OPEN clears `rx.is_complete`. -/
def Obligations.ReceiveInvariantsHoldAfterEveryCommand : Prop :=
  ∀ (s t : State) (i : Instr), Inv s → i.wf s.par = true → exec i s = .next t →
    (rxBufLive t = true ↔ t.rx.state = .reassembling) ∧
    (∀ b, t.rx.buf = some b → b.length = t.rx.expected.toNat) ∧
    t.rx.received.toNat ≤ t.rx.expected.toNat ∧ t.rx.expected.toNat ≤ t.par.maxMsg ∧
    t.rx.expected.toNat ≤ 4095 ∧
    (rxIsComplete s = true → (∀ a r, i ≠ .rxOpen a r) → rxIsComplete t = true)

/-- R25, R33: every step keeps the receive and send invariants, the ranges of the registers and the
canonical form of the stores. The canonical form is the model's, log entry 5. -/
def Obligations.StepKeepsTheInvariants : Prop :=
  ∀ s t : State, Inv s → step s = .next t → Inv t

/-- R14: "No command faults, traps, hangs": in every legal state every instruction that can be presented
answers a next state. It covers delivered frames and codec functions too, log entries 12 and 13. -/
def Obligations.NoCommandFaultsInALegalState : Prop :=
  ∀ (s : State) (i : Instr), Inv s → i.wf s.par = true → ∃ t, exec i s = .next t ∧ Inv t

/-- R20, R72, R280: no instruction touches the configuration, the parameters or the inbox; those of one
session leave every register and store of the other unchanged; codec functions leave both. That a
delivered frame is an instruction is the model's, log entry 13. -/
def Obligations.SessionsShareNoMutableState : Prop :=
  ∀ (s t : State) (i : Instr), exec i s = .next t →
    t.par = s.par ∧ t.cfg = s.cfg ∧ t.inbox = s.inbox ∧
    (receives i = false → t.rx = s.rx) ∧ (sends i = false → t.tx = s.tx)

/-- R60: who writes which store. Only TX_BEGIN writes a byte of `TXMSG`; `RXMSG` is written only by the
step that makes the Receive Session COMPLETE, and `RXBUF` only by RX_OPEN, a First frame in AWAIT_FF
and a Consecutive frame in REASSEMBLING. Delivered frames count as the handlers they reach, log entry 13. -/
def Obligations.StoresAreWrittenOnlyByTheirWriters : Prop :=
  ∀ (s t : State) (i : Instr), exec i s = .next t →
    ((∀ a d n, i ≠ .txBegin a d n) → ∀ j, Memory.get t.tx.msg j = Memory.get s.tx.msg j) ∧
    (t.rx.state ≠ .complete ∨ s.rx.state = .complete →
      t.rx.msg = s.rx.msg ∧ ∀ j, Memory.get t.rx.msg.payload j = Memory.get s.rx.msg.payload j) ∧
    ((∀ a r, i ≠ .rxOpen a r) → ¬ (s.rx.state = .awaitFf ∧ PresentsFirst i) →
      ¬ (s.rx.state = .reassembling ∧ PresentsConsecutive i) → t.rx.buf = s.rx.buf)

/-- R42: within the life of a session `is_complete` never goes back: only RX_OPEN clears the receive
flag, only TX_BEGIN the send flag. That constructing a session clears the flag is the spec's decision
D8. -/
def Obligations.CompletionIsMonotonic : Prop :=
  ∀ (s t : State) (i : Instr), exec i s = .next t →
    (rxIsComplete s = true → (∀ a r, i ≠ .rxOpen a r) →
      rxIsComplete t = true ∧ rxIsSuccessful t = rxIsSuccessful s) ∧
    (txIsComplete s = true → (∀ a d n, i ≠ .txBegin a d n) →
      txIsComplete t = true ∧ txIsSuccessful t = txIsSuccessful s)

/-- R24, R173: the transitions of `rx.state` are those of the table, each by its event: RX_OPEN from any
state; a Single or a First frame out of AWAIT_FF; a Consecutive frame out of REASSEMBLING, to COMPLETE
exactly when the buffer is then full. Gating by state is the spec's decision D7. A frame is presented
by RX_FRAME or delivered as such, log entry 13. -/
def Obligations.ReceiveTransitionsAreThoseOfTheTable : Prop :=
  ∀ (s t : State) (i : Instr), exec i s = .next t → t.rx.state ≠ s.rx.state →
    ((∃ a r, i = .rxOpen a r) ∧ t.rx.state = .awaitFf) ∨
    (PresentsSingle i ∧ s.rx.state = .awaitFf ∧ t.rx.state = .complete) ∨
    (PresentsFirst i ∧ s.rx.state = .awaitFf ∧ t.rx.state = .reassembling) ∨
    (PresentsConsecutive i ∧ s.rx.state = .reassembling ∧
      ((t.rx.state = .complete ∧ t.rx.received = t.rx.expected) ∨
        (t.rx.state = .failed ∧ t.rx.received ≠ t.rx.expected)))

/-- R221: the transitions of `tx.state` are those of the table: TX_BEGIN from any state, by the length
of the message; out of ACTIVE only TX_CONTINUE, and a flow-control frame with status Overflow, which
fails the transfer. (A delivered FC.OVFLW is such a frame, log entry 13.) -/
def Obligations.SendTransitionsAreThoseOfTheTable : Prop :=
  ∀ (s t : State) (i : Instr), exec i s = .next t → t.tx.state ≠ s.tx.state →
    (∃ a d n, i = .txBegin a d n ∧
      (n ≤ 7 → t.tx.state = .complete ∨ t.tx.state = .failed) ∧
      (7 < n → t.tx.state = .active ∨ t.tx.state = .failed)) ∨
    (s.tx.state = .active ∧ s.tx.toSend ≠ .count 0 ∧ i = .txContinue ∧
      (t.tx.state = .complete ∨ t.tx.state = .failed)) ∨
    (s.tx.state = .active ∧ t.tx.state = .failed ∧
      ((∃ a f, i = .txFc a f ∧ decType f = some 3 ∧ decFcFs f = some 2) ∨
        ∃ a bs st tail n, i = .fcOvflw a bs st tail n))

/-- R283: one step emits at most one completion notification. -/
def Obligations.AtMostOneNotificationPerStep : Prop :=
  ∀ (s t : State) (i : Instr), exec i s = .next t → notifications t.out.events ≤ 1

/-- R224: `NotifyTxSent` occurs at exactly the steps that make the Send Session terminal, with the
session's address and its success flag; a session that is already terminal gives none until TX_BEGIN.
The arguments of the notification are the spec's decision D21. -/
def Obligations.SenderIsNotifiedExactlyWhenTerminal : Prop :=
  ∀ (s t : State) (i : Instr) (a : Addr) (ok : Bool), exec i s = .next t →
    (.notifyTxSent a ok ∈ t.out.events ↔
      ((∃ a d n, i = .txBegin a d n) ∨ txIsComplete s = false) ∧ txIsComplete t = true ∧
        a = t.tx.addr ∧ ok = txIsSuccessful t)

/-- R179, R255: `NotifyRxComplete` occurs at exactly the steps at which the Receive Session becomes
COMPLETE, carries the Message left in `RXMSG`, and that Message is the step's result. The event beside
the result is the spec's decision D21. -/
def Obligations.ReceiverIsNotifiedExactlyOnCompletion : Prop :=
  ∀ (s t : State) (i : Instr) (m : Message), exec i s = .next t →
    (.notifyRxComplete m ∈ t.out.events ↔
      s.rx.state ≠ .complete ∧ t.rx.state = .complete ∧ m = t.rx.msg) ∧
    (.notifyRxComplete m ∈ t.out.events → t.out.result = .message m ∧ m.isComplete = true)

/-- R254, R270: with logging enabled a `Log` event occurs exactly for the outcomes R271 marks as logged,
with the configured context; with logging disabled none does. The logged column is the spec's decision
D22. -/
def Obligations.LogEventsAreExactlyTheLoggedOutcomes : Prop :=
  ∀ (s t : State) (i : Instr) (o : OutcomeName) (c : Ctx), exec i s = .next t →
    (.log o c ∈ t.out.events ↔
      s.cfg.logEn = true ∧ t.out.outcome = o ∧ c = s.cfg.context ∧
        o ∈ [OutcomeName.rxRejTooLong, .rxRejAlloc, .rxFailReassembly, .txFcRejFormat, .txFcRejStatus])

/-- R250, R251, R258: every frame handed to the transport carries the configured context, has the length
announced, 8 bytes if padding is on and 1 to 8 otherwise. When padding is read is the spec's decision
D23. -/
def Obligations.TransmittedFramesHaveTheirAnnouncedLength : Prop :=
  ∀ (s t : State) (i : Instr) (a : Addr) (bytes : List Byte) (len : Nat) (c : Ctx),
    exec i s = .next t → .xmit a bytes len c ∈ t.out.events →
    bytes.length = len ∧ 1 ≤ len ∧ len ≤ 8 ∧ (s.cfg.pad = true → len = 8) ∧ c = s.cfg.context

/-- R69, U5: bytes of a presented frame beyond its valid length are never read: two frames that agree on
their valid bytes have the same effect in every command and every decode function. The valid length is
the spec's decision D9. -/
def Obligations.InvalidBytesAreNeverRead : Prop :=
  ∀ (s : State) (a : Addr) (f g : Frame), f.dlen = g.dlen →
    (∀ k < f.dlen.val, frameByte f k = frameByte g k) →
    exec (.rxFrame a f) s = exec (.rxFrame a g) s ∧ exec (.txFc a f) s = exec (.txFc a g) s ∧
    exec (.decType f) s = exec (.decType g) s ∧ exec (.decSfDl f) s = exec (.decSfDl g) s ∧
    exec (.decFfDl f) s = exec (.decFfDl g) s ∧ exec (.decCfSn f) s = exec (.decCfSn g) s ∧
    exec (.decFcFs f) s = exec (.decFcFs g) s ∧ exec (.decFcBs f) s = exec (.decFcBs g) s ∧
    exec (.decFcSt f) s = exec (.decFcSt g) s

/-- R98, R176, R213, R215, R216: the separation time, the block size of Wait and Overflow, the sequence
number of a received Consecutive frame and the address of a flow-control frame change nothing. That they
are not read is the spec's decisions D11, D15 and D17. That a delivered frame is an instruction is the
model's, log entry 13. -/
def Obligations.UnreadFieldsChangeNothing : Prop :=
  ∀ (s : State) (a a' : Addr) (f : Frame) (bs bs' st st' : Byte) (sn sn' : Nibble) (tail : Tail3)
    (tail1 : Tail1) (n : Fin 9),
    exec (.fcCts a bs st tail n) s = exec (.fcCts a bs st' tail n) s ∧
    exec (.fcWait a bs st tail n) s = exec (.fcWait a bs' st' tail n) s ∧
    exec (.fcOvflw a bs st tail n) s = exec (.fcOvflw a bs' st' tail n) s ∧
    exec (.cf a sn tail1 n) s = exec (.cf a sn' tail1 n) s ∧
    exec (.txFc a f) s = exec (.txFc a' f) s

/-! ### Two blocks: a whole transfer -/

/-- R180(c): a First frame that a Send Session transmits and a waiting Receive Session accepts puts the
two in step. R180 is derived in the spec. -/
def Obligations.FirstFramePutsTheBlocksInStep : Prop :=
  ∀ (S R : State) (a : Addr) (d : List Byte) (len : Nat),
    S.tx.msg.wf = true → S.par.wf = true → 8 ≤ len → len ≤ 4095 → len ≤ d.length →
    len ≤ S.par.maxMsg → len ≤ R.par.maxMsg → R.rx.state = .awaitFf → R.rx.srcAddr = a →
    nextAnswer S = true → nextAnswer R = true →
    ∃ S' R' f, exec (.txBegin a d len) S = .next S' ∧
      .xmit a (f.bytes.toList.take f.dlen.val) f.dlen.val S.cfg.context ∈ S'.out.events ∧
      exec (.rxFrame a f) R = .next R' ∧ InStep S' R'

/-- R180(c), R219, R176: from two blocks in step, a Consecutive frame the sender transmits and the
receiver is given keeps them in step, or ends the transfer: both COMPLETE, and the receiver delivers
exactly the sender's message. R180 is derived in the spec. -/
def Obligations.ConsecutiveFrameKeepsTheBlocksInStep : Prop :=
  ∀ S R : State, Inv S → Inv R → InStep S R → S.tx.toSend ≠ .count 0 → nextAnswer S = true →
    ∃ S' R' f, exec .txContinue S = .next S' ∧
      .xmit S.tx.addr (f.bytes.toList.take f.dlen.val) f.dlen.val S.cfg.context ∈ S'.out.events ∧
      exec (.rxFrame S.tx.addr f) R = .next R' ∧
      (InStep S' R' ∨
        (S'.tx.state = .complete ∧ R'.rx.state = .complete ∧ R'.rx.msg.address = S.tx.addr ∧
          R'.rx.msg.length = S.tx.len ∧ R'.rx.msg.isMultiFrame = true ∧
          (∀ k < S.tx.len.toNat, Memory.get R'.rx.msg.payload k = Memory.get S.tx.msg k) ∧
          .notifyRxComplete R'.rx.msg ∈ R'.out.events))

/-- R222: with an unlimited grant and a transport that accepts every frame, the rest of the message
takes exactly ceil((tx.len - tx.offset) / 7) TX_CONTINUE commands: after fewer the session is still
ACTIVE, after these it is COMPLETE. R222 is derived in the spec. -/
def Obligations.TransferTakesExactlyItsFrames : Prop :=
  ∀ S : State, Inv S → S.tx.state = .active → S.tx.toSend = .unlimited →
    let k := (S.tx.len.toNat - S.tx.offset.toNat + 6) / 7
    S.answers = List.replicate k true →
    (∀ j < k, ∃ t, pump j S = some t ∧ t.tx.state = .active ∧ t.tx.offset.toNat = S.tx.offset.toNat + 7 * j ∧
      t.tx.seq = S.tx.seq + BitVec.ofNat 4 j) ∧
    (∃ t, pump k S = some t ∧ t.tx.state = .complete ∧ t.tx.offset = S.tx.len)

/-- R180(c) for at most 7 bytes: the Single frame a Send Session transmits, fed to a waiting Receive
Session, delivers the message whole in that one step. R180 is derived in the spec. -/
def Obligations.SingleFrameTransferDeliversTheMessage : Prop :=
  ∀ (S R : State) (a : Addr) (d : List Byte) (len : Nat),
    S.tx.msg.wf = true → len ≤ 7 → len ≤ d.length → len ≤ S.par.maxMsg → R.rx.state = .awaitFf →
    R.rx.srcAddr = a → nextAnswer S = true →
    ∃ S' R' f, exec (.txBegin a d len) S = .next S' ∧
      .xmit a (f.bytes.toList.take f.dlen.val) f.dlen.val S.cfg.context ∈ S'.out.events ∧
      exec (.rxFrame a f) R = .next R' ∧
      S'.tx.state = .complete ∧ R'.rx.state = .complete ∧ R'.rx.msg.address = a ∧
      R'.rx.msg.length.toNat = len ∧ R'.rx.msg.isMultiFrame = false ∧
      (∀ k < len, Memory.get R'.rx.msg.payload k = d.getD k 0) ∧
      .notifyRxComplete R'.rx.msg ∈ R'.out.events

/-- R180(c), R222 for 8 to 4095 bytes, two blocks facing each other: TX_BEGIN's First frame is fed to
the receiver, the receiver's flow-control frame to the sender, and then exactly ceil((L - 6) / 7)
Consecutive frames to the receiver. Both end COMPLETE and the receiver delivers exactly the message
given to TX_BEGIN. R180 and R222 are derived in the spec. For 8 bytes or more, ceil((L - 6) / 7) is L /
7 rounded down. -/
def Obligations.WholeMessageIsDelivered : Prop :=
  ∀ (S R : State) (a : Addr) (d : List Byte) (len : Nat),
    Inv S → Inv R → Instr.wf S.par (.txBegin a d len) = true → 8 ≤ len → len ≤ 4095 →
    len ≤ R.par.maxMsg → S.par.fcMinLen ≤ 3 → R.rx.state = .awaitFf → R.rx.srcAddr = a →
    S.answers = List.replicate (1 + len / 7) true → nextAnswer R = true →
    ∃ S₁ R₁ S₂ S₃ R₃ f g, exec (.txBegin a d len) S = .next S₁ ∧
      .xmit a (f.bytes.toList.take f.dlen.val) f.dlen.val S.cfg.context ∈ S₁.out.events ∧
      exec (.rxFrame a f) R = .next R₁ ∧
      .xmit R.rx.replyAddr (g.bytes.toList.take g.dlen.val) g.dlen.val R.cfg.context ∈ R₁.out.events ∧
      exec (.txFc R.rx.replyAddr g) S₁ = .next S₂ ∧
      Relayed (len / 7) S₂ R₁ S₃ R₃ ∧
      S₃.tx.state = .complete ∧ R₃.rx.state = .complete ∧ R₃.rx.msg.address = a ∧
      R₃.rx.msg.length.toNat = len ∧ R₃.rx.msg.isMultiFrame = true ∧
      (∀ k < len, Memory.get R₃.rx.msg.payload k = d.getD k 0) ∧
      .notifyRxComplete R₃.rx.msg ∈ R₃.out.events

/-! ### The context -/

/-- R258: the context is attached to every `Xmit` and `Log` event as it stands in `cfg.context`, and has no
other effect: with another context every instruction does the same, and only the context in those
events is the other one. -/
def Obligations.ContextIsPassedThroughUnread : Prop :=
  ∀ (s t : State) (i : Instr), exec i s = .next t →
    (∀ a bytes len c, .xmit a bytes len c ∈ t.out.events → c = s.cfg.context) ∧
    (∀ o c, .log o c ∈ t.out.events → c = s.cfg.context) ∧
    (∀ c, exec i (s.withContext c) = .next (t.withContext c))
end

