-- ==== Sys2Proof/Laws/Bytes.lean ====
section
/-! SUPPORT. Numbers in registers of `LEN_W` bits; `MemRead` and `MemWrite` on byte lists (`FRAME`,
`RXBUF`). -/

namespace Sys2Proof.Machine

/-! ### Registers of `LEN_W` bits -/

/-- A number that fits is stored as it is (R222). -/
theorem toNat_toLen {n : Nat} (h : n ≤ 65535) : (toLen n).toNat = n := by
  simp only [toLen, Config.lenW, BitVec.toNat_ofNat]
  omega

@[simp] theorem toLen_toNat (x : Len) : toLen x.toNat = x := by simp [toLen]

/-- A register holds at most `2 ^ LEN_W - 1`. -/
theorem len_le (x : Len) : x.toNat ≤ 65535 := Nat.le_of_lt_succ x.isLt

/-- A number in a register equals another register exactly as numbers, if it fits. -/
theorem toLen_eq_iff {n : Nat} (h : n ≤ 65535) (x : Len) : toLen n = x ↔ n = x.toNat :=
  ⟨fun e => by rw [← e, toNat_toLen h], fun e => by rw [e, toLen_toNat]⟩

/-! ### Byte lists -/

/-- A write never changes which bytes exist (20_memory.md R60). -/
@[simp] theorem length_bytesWrite (l : List Byte) (i : Nat) (v : List Byte) :
    (bytesWrite l i v).length = l.length := by
  induction l generalizing i v with
  | nil => rfl
  | cons b l ih =>
    match i, v with
    | 0, [] => rfl
    | 0, v :: vs => simp [bytesWrite, ih]
    | i + 1, vs => simp [bytesWrite, ih]

@[simp] theorem length_bytesRead (l : List Byte) (i n : Nat) :
    (bytesRead l i n).length = min n (l.length - i) := by
  simp [bytesRead]

@[simp] theorem length_freshBuffer (k n : Nat) : (freshBuffer k n).length = n := by
  simp [freshBuffer]

@[simp] theorem length_toList (F : FrameBytes) : F.toList.length = 8 := rfl

@[simp] theorem length_withPayload (F : FrameBytes) (i : Nat) (v : List Byte) :
    (withPayload F i v).length = 8 := by
  simp [withPayload]

/-- A run of existing bytes of a frame has the length asked for (R68). -/
theorem length_frame_read (F : FrameBytes) {i n : Nat} (h : i + n ≤ 8) :
    (bytesRead F.toList i n).length = n := by
  simp only [length_bytesRead, length_toList]
  omega

/-- Outside the run a write changes nothing. -/
theorem getElem?_bytesWrite_outside {l : List Byte} {i k : Nat} {v : List Byte}
    (h : k < i ∨ i + v.length ≤ k) : (bytesWrite l i v)[k]? = l[k]? := by
  induction l generalizing i k v with
  | nil => rfl
  | cons b l ih =>
    match i, v, k with
    | 0, [], k => rfl
    | 0, v :: vs, 0 => simp at h
    | 0, v :: vs, k + 1 =>
      simp only [bytesWrite, List.getElem?_cons_succ]
      exact ih (by simp at h; omega)
    | i + 1, vs, 0 => rfl
    | i + 1, vs, k + 1 =>
      simp only [bytesWrite, List.getElem?_cons_succ]
      exact ih (by omega)

/-- Inside the run, where the byte exists, it is the one written. -/
theorem getElem?_bytesWrite_inside {l : List Byte} {i k : Nat} {v : List Byte} (hk : k < v.length)
    (hl : i + k < l.length) : (bytesWrite l i v)[i + k]? = v[k]? := by
  induction l generalizing i k v with
  | nil => simp at hl
  | cons b l ih =>
    simp only [List.length_cons] at hl
    match i, v, k with
    | 0, [], k => simp at hk
    | 0, v :: vs, 0 => simp [bytesWrite]
    | 0, v :: vs, k + 1 =>
      have := ih (i := 0) (k := k) (v := vs) (by simpa using hk) (by omega)
      simpa [bytesWrite] using this
    | i + 1, vs, k =>
      have := ih (i := i) (k := k) (v := vs) hk (by omega)
      rw [show i + 1 + k = i + k + 1 by omega]
      simpa [bytesWrite] using this

/-- A run written at the start of a list that is long enough replaces its first bytes. -/
theorem bytesWrite_zero {l v : List Byte} (h : v.length ≤ l.length) :
    bytesWrite l 0 v = v ++ l.drop v.length := by
  induction v generalizing l with
  | nil => cases l <;> simp [bytesWrite]
  | cons x v ih =>
    cases l with
    | nil => simp at h
    | cons y l => simp [bytesWrite, ih (l := l) (by simpa using h)]

/-- A run over zeros leaves zeros after it. -/
theorem bytesWrite_zeros {n : Nat} {v : List Byte} (h : v.length ≤ n) :
    bytesWrite (List.replicate n 0) 0 v = v ++ List.replicate (n - v.length) 0 := by
  rw [bytesWrite_zero (by simpa using h), List.drop_replicate]

/-- A payload after a one-byte header, in a zeroed `FRAME` (R92, R94, R140). -/
theorem withPayload_one (ty low : Nibble) {v : List Byte} (h : v.length ≤ 7) :
    withPayload (header ty low 0 0) 1 v =
      (joinNibbles ty low :: v) ++ List.replicate (8 - (joinNibbles ty low :: v).length) 0 := by
  have h := bytesWrite_zeros h
  rw [List.length_cons, show 8 - (v.length + 1) = 7 - v.length by omega, List.cons_append, ← h]
  rfl

/-- A payload after a two-byte header, in a zeroed `FRAME` (R93, R140). -/
theorem withPayload_two (ty low : Nibble) (b1 : Byte) {v : List Byte} (h : v.length ≤ 6) :
    withPayload (header ty low b1 0) 2 v =
      (joinNibbles ty low :: b1 :: v) ++
        List.replicate (8 - (joinNibbles ty low :: b1 :: v).length) 0 := by
  have h := bytesWrite_zeros h
  rw [List.length_cons, List.length_cons, show 8 - (v.length + 1 + 1) = 6 - v.length by omega,
    List.cons_append, List.cons_append, ← h]
  rfl

end Sys2Proof.Machine
end

