-- ==== Sys2Proof/Laws/Codec.lean ====
section
/-! SUPPORT. Nibbles of a header byte, and what the decode functions read from a frame built from its
fields. -/

namespace Sys2Proof

/-- Writing both nibbles of a byte, the high one reads back (R66, R140). -/
@[simp] theorem hiNibble_joinNibbles (h l : Nibble) : hiNibble (joinNibbles h l) = h := by
  revert h l; decide

/-- Writing both nibbles of a byte, the low one reads back (R66, R140). -/
@[simp] theorem loNibble_joinNibbles (h l : Nibble) : loNibble (joinNibbles h l) = l := by
  revert h l; decide

/-- A byte is its two nibbles (R64). -/
@[simp] theorem joinNibbles_split (b : Byte) : joinNibbles (hiNibble b) (loNibble b) = b := by
  revert b; decide

/-- A byte joined from nibbles has the value `16 * high + low` (R10). -/
theorem joinNibbles_ofNat (h : Nibble) {k : Nat} (hk : k < 16) :
    joinNibbles h (BitVec.ofNat 4 k) = BitVec.ofNat 8 (16 * h.toNat + k) := by
  apply BitVec.eq_of_toNat_eq
  show (h ++ BitVec.ofNat 4 k : BitVec (4 + 4)).toNat = _
  have := h.isLt
  rw [BitVec.toNat_append, ← Nat.shiftLeft_add_eq_or_of_lt (BitVec.isLt _), Nat.shiftLeft_eq,
    BitVec.toNat_ofNat, BitVec.toNat_ofNat]
  omega

theorem toNat_nibble4to7 (x : BitVec 2) : (nibble4to7 x).toNat = 4 + x.toNat := by
  revert x; decide

theorem toNat_nibble8to15 (x : BitVec 3) : (nibble8to15 x).toNat = 8 + x.toNat := by
  revert x; decide

/-- The value of FF_DL from its two parts: `256 * high + low` (R99). -/
theorem toNat_ffDl (total : BitVec 12) :
    256 * (ffDlHigh total).toNat + (ffDlLow total).toNat = total.toNat := by
  simp only [ffDlHigh, ffDlLow, BitVec.extractLsb'_toNat, Nat.shiftRight_eq_div_pow]
  have := total.isLt
  omega

/-- The value of FF_DL joined from its two parts (R99). -/
theorem toNat_joinFfDl (hi : Nibble) (lo : Byte) :
    (joinFfDl hi lo).toNat = 256 * hi.toNat + lo.toNat := by
  show (hi ++ lo : BitVec (4 + 8)).toNat = _
  rw [BitVec.toNat_append, ← Nat.shiftLeft_add_eq_or_of_lt lo.isLt, Nat.shiftLeft_eq]
  omega

/-- FF_DL split into its parts and joined again (R65, R93). -/
@[simp] theorem joinFfDl_split (total : BitVec 12) :
    joinFfDl (ffDlHigh total) (ffDlLow total) = total := by
  apply BitVec.eq_of_toNat_eq
  rw [toNat_joinFfDl, toNat_ffDl]

/-- The high part of a joined FF_DL (R65, R93). -/
@[simp] theorem ffDlHigh_joinFfDl (hi : Nibble) (lo : Byte) : ffDlHigh (joinFfDl hi lo) = hi := by
  apply BitVec.eq_of_toNat_eq
  have := toNat_ffDl (joinFfDl hi lo)
  have := (ffDlLow (joinFfDl hi lo)).isLt
  have := lo.isLt
  rw [toNat_joinFfDl] at *
  omega

/-- The low part of a joined FF_DL (R65, R93). -/
@[simp] theorem ffDlLow_joinFfDl (hi : Nibble) (lo : Byte) : ffDlLow (joinFfDl hi lo) = lo := by
  apply BitVec.eq_of_toNat_eq
  have := toNat_ffDl (joinFfDl hi lo)
  rw [ffDlHigh_joinFfDl, toNat_joinFfDl] at this
  omega

end Sys2Proof

namespace Sys2Proof.Machine

/-- A field of a valid byte is present (R131). -/
theorem fieldAt_of_lt {f : Frame} {i : Nat} (v : Nat) (h : i < f.dlen.val) : fieldAt f i v = some v := by
  simp [fieldAt, h]

/-- A field of a byte beyond the valid length is absent (R131). -/
theorem fieldAt_of_le {f : Frame} {i : Nat} (v : Nat) (h : f.dlen.val ≤ i) : fieldAt f i v = none := by
  simp [fieldAt, Nat.not_lt.mpr h]

variable {n : Fin 9}

@[simp] theorem dlen_frameWithTail1 (ty low : Nibble) (t : Tail1) : (frameWithTail1 ty low t n).dlen = n := rfl
@[simp] theorem dlen_frameSf (dl : Nibble) (t : Tail1) : (frameSf dl t n).dlen = n := rfl
@[simp] theorem dlen_frameCf (sn : Nibble) (t : Tail1) : (frameCf sn t n).dlen = n := rfl
@[simp] theorem dlen_frameFf (x : BitVec 12) (t : Tail2) : (frameFf x t n).dlen = n := rfl
@[simp] theorem dlen_frameFc (fs : Nibble) (bs st : Byte) (t : Tail3) : (frameFc fs bs st t n).dlen = n := rfl

/-- The type of a frame built from its nibbles. -/
theorem decType_frameWithTail1 (ty low : Nibble) (t : Tail1) (h : 1 ≤ n.val) :
    decType (frameWithTail1 ty low t n) = some ty.toNat := by
  exact (fieldAt_of_lt _ h).trans (by simp [frameWithTail1])

theorem decType_frameFf (x : BitVec 12) (t : Tail2) (h : 1 ≤ n.val) :
    decType (frameFf x t n) = some 1 := by
  exact (fieldAt_of_lt _ h).trans (by simp [frameFf])

theorem decType_frameFc (fs : Nibble) (bs st : Byte) (t : Tail3) (h : 1 ≤ n.val) :
    decType (frameFc fs bs st t n) = some 3 := by
  exact (fieldAt_of_lt _ h).trans (by simp [frameFc])

theorem decSfDl_frameSf (dl : Nibble) (t : Tail1) (h : 1 ≤ n.val) :
    decSfDl (frameSf dl t n) = some dl.toNat := by
  exact (fieldAt_of_lt _ h).trans (by simp [frameSf, frameWithTail1])

theorem decFfDl_frameFf (x : BitVec 12) (t : Tail2) :
    decFfDl (frameFf x t n) = if 2 ≤ n.val then some x.toNat else none := by
  simp only [decFfDl, fieldAt, frameFf, loNibble_joinNibbles, toNat_ffDl]
  rfl

theorem decFcFs_frameFc (fs : Nibble) (bs st : Byte) (t : Tail3) (h : 1 ≤ n.val) :
    decFcFs (frameFc fs bs st t n) = some fs.toNat := by
  exact (fieldAt_of_lt _ h).trans (by simp [frameFc])

theorem decFcBs_frameFc (fs : Nibble) (bs st : Byte) (t : Tail3) :
    decFcBs (frameFc fs bs st t n) = if 2 ≤ n.val then some bs.toNat else none := by
  simp only [decFcBs, fieldAt, frameFc]
  rfl

/-- The frame a receiver grants continuation with is `[0x30, 0x00, 0x00]`, padded in its buffer (R175). -/
theorem grantFrame_eq : grantFrame = [0x30, 0, 0, 0, 0, 0, 0, 0] := by decide

/-- Encoding a total that fits (R142). -/
theorem encFf_of_le {x : Half} (h : x.toNat ≤ 4095) :
    encFf x = .ok (header 1 (x.extractLsb' 8 4) (x.extractLsb' 0 8) 0) := by
  simp [encFf, Nat.not_lt.mpr h]

/-- A 4-bit sequence number always fits (R143). -/
theorem encCf_zeroExtend (x : BitVec 4) :
    encCf (x.zeroExtend 16) = .ok (header 2 x 0 0) := by
  revert x; decide

/-- A length of at most 7 always fits (R141, R210). -/
theorem encSf_of_le {x : Half} (h : x.toNat ≤ 7) :
    encSf x = .ok (header 0 (BitVec.ofNat 4 x.toNat) 0 0) := by
  have h4 : x.extractLsb' 0 4 = BitVec.ofNat 4 x.toNat := by
    apply BitVec.eq_of_toNat_eq
    simp [BitVec.extractLsb'_toNat]
  rw [encSf, if_neg (by omega), h4]

end Sys2Proof.Machine
end

