-- ==== Sys2Proof/Laws/Memory.lean ====
section
/-! SUPPORT. Every operation on a store keeps its canonical form; a read after a write gives the value
written there and what was there elsewhere. -/

namespace Sys2Proof.Machine

/-! ### The canonical form -/

theorem Memory.wfFrom_le {lo lo' : Nat} (h : lo ≤ lo') {m : Memory} (hm : Memory.wfFrom lo' m = true) :
    Memory.wfFrom lo m = true := by
  cases m with
  | nil => rfl
  | cons c m =>
    simp only [Memory.wfFrom, Bool.and_eq_true, decide_eq_true_eq] at hm ⊢
    exact ⟨⟨h.trans hm.1.1, hm.1.2⟩, hm.2⟩

theorem Memory.wf_empty : Memory.wf Memory.empty = true := rfl

/-- Writing one byte keeps the canonical form. -/
theorem Memory.wfFrom_set {lo a : Nat} {b : Byte} {m : Memory} (hm : Memory.wfFrom lo m = true)
    (ha : lo ≤ a) : Memory.wfFrom lo (Memory.set m a b) = true := by
  induction m generalizing lo with
  | nil =>
    unfold Memory.set
    split <;> simp_all [Memory.wfFrom]
  | cons c m ih =>
    obtain ⟨a', b'⟩ := c
    simp only [Memory.wfFrom, Bool.and_eq_true, decide_eq_true_eq] at hm
    obtain ⟨⟨h1, h2⟩, h3⟩ := hm
    unfold Memory.set
    split_ifs with hlt hb heq hb
    · simp only [Memory.wfFrom, Bool.and_eq_true, decide_eq_true_eq]
      exact ⟨⟨h1, h2⟩, h3⟩
    · simp only [Memory.wfFrom, Bool.and_eq_true, decide_eq_true_eq]
      exact ⟨⟨ha, hb⟩, ⟨hlt, h2⟩, h3⟩
    · exact Memory.wfFrom_le (by omega) h3
    · simp only [Memory.wfFrom, Bool.and_eq_true, decide_eq_true_eq]
      exact ⟨⟨ha, hb⟩, by rw [heq]; exact h3⟩
    · simp only [Memory.wfFrom, Bool.and_eq_true, decide_eq_true_eq]
      exact ⟨⟨h1, h2⟩, ih h3 (by omega)⟩

/-- Writing one byte keeps the canonical form of a store. -/
theorem Memory.wf_set {m : Memory} (hm : m.wf = true) (a : Nat) (b : Byte) :
    (Memory.set m a b).wf = true := Memory.wfFrom_set hm (Nat.zero_le a)

/-- `MemWrite` keeps the canonical form. -/
theorem Memory.wf_write {m : Memory} (hm : m.wf = true) (i : Nat) (v : List Byte) :
    (Memory.write m i v).wf = true := by
  induction v generalizing m i with
  | nil => exact hm
  | cons b v ih => exact ih (Memory.wf_set hm i b) (i + 1)

/-! ### What is listed -/

/-- A cell listed after a one-byte write is the one written or was listed before. -/
theorem Memory.mem_set {m : Memory} {a : Nat} {b : Byte} {c : Host.Cell}
    (h : c ∈ Memory.set m a b) : c = (a, b) ∨ c ∈ m := by
  induction m with
  | nil =>
    unfold Memory.set at h
    split at h <;> simp_all
  | cons d m ih =>
    obtain ⟨a', b'⟩ := d
    unfold Memory.set at h
    split_ifs at h <;> simp only [List.mem_cons] at h ⊢ <;> tauto

/-- Addresses listed after `MemWrite` stay below a bound that the run respects. -/
theorem Memory.lt_of_mem_write {n : Nat} {m : Memory} (hm : ∀ c ∈ m, c.1 < n) {i : Nat}
    {v : List Byte} (hi : i + v.length ≤ n) : ∀ c ∈ Memory.write m i v, c.1 < n := by
  induction v generalizing m i with
  | nil => exact hm
  | cons b v ih =>
    simp only [List.length_cons] at hi
    refine ih (fun c hc => ?_) (by omega)
    rcases Memory.mem_set hc with rfl | h
    · show i < n
      omega
    · exact hm c h

/-! ### Reading -/

/-- Below every listed address a store reads 0x00. -/
theorem Memory.get_of_lt {lo a : Nat} (h : a < lo) {m : Memory} (hm : Memory.wfFrom lo m = true) :
    Memory.get m a = 0 := by
  induction m generalizing lo with
  | nil => rfl
  | cons c m ih =>
    obtain ⟨a', b'⟩ := c
    simp only [Memory.wfFrom, Bool.and_eq_true, decide_eq_true_eq] at hm
    unfold Memory.get
    rw [if_neg (by omega)]
    exact ih (lo := a' + 1) (by omega) hm.2

/-- A read after a one-byte write, from any lower bound. -/
theorem Memory.get_set_from {lo a a' : Nat} {b : Byte} {m : Memory} (hm : Memory.wfFrom lo m = true) :
    Memory.get (Memory.set m a b) a' = if a' = a then b else Memory.get m a' := by
  induction m generalizing lo with
  | nil =>
    unfold Memory.set
    split_ifs <;> simp_all [Memory.get]
  | cons c m ih =>
    obtain ⟨x, y⟩ := c
    simp only [Memory.wfFrom, Bool.and_eq_true, decide_eq_true_eq] at hm
    obtain ⟨⟨-, -⟩, h3⟩ := hm
    unfold Memory.set
    by_cases hlt : a < x
    · have hget : Memory.get m a = 0 := Memory.get_of_lt (lo := x + 1) (by omega) h3
      by_cases heq : a' = a
      · subst heq
        split_ifs <;> simp_all [Memory.get]
        omega
      · split_ifs <;> simp [Memory.get, heq]
    · rw [if_neg hlt]
      by_cases haa : a = x
      · subst haa
        have hget : Memory.get m a = 0 := Memory.get_of_lt (lo := a + 1) (by omega) h3
        by_cases heq : a' = a <;> split_ifs <;> simp_all [Memory.get]
      · rw [if_neg haa, Memory.get, Memory.get, ih h3]
        by_cases heq : a' = a
        · simp [heq, haa]
        · simp [heq]

/-- A read after a one-byte write (R11). -/
theorem Memory.get_set {m : Memory} (hm : m.wf = true) (a a' : Nat) (b : Byte) :
    Memory.get (Memory.set m a b) a' = if a' = a then b else Memory.get m a' :=
  Memory.get_set_from hm

/-- Outside the run, `MemWrite` changes nothing. -/
theorem Memory.get_write_outside {m : Memory} (hm : m.wf = true) {i a : Nat} {v : List Byte}
    (h : a < i ∨ i + v.length ≤ a) : Memory.get (Memory.write m i v) a = Memory.get m a := by
  induction v generalizing m i with
  | nil => rfl
  | cons b v ih =>
    simp only [List.length_cons] at h
    show Memory.get (Memory.write (Memory.set m i b) (i + 1) v) a = _
    rw [ih (Memory.wf_set hm i b) (by omega), Memory.get_set hm, if_neg (by omega)]

/-- Inside the run, a read gives the byte written. -/
theorem Memory.get_write_inside {m : Memory} (hm : m.wf = true) {i k : Nat} {v : List Byte}
    (h : k < v.length) : Memory.get (Memory.write m i v) (i + k) = v.getD k 0 := by
  induction v generalizing m i k with
  | nil => simp at h
  | cons b v ih =>
    simp only [List.length_cons] at h
    show Memory.get (Memory.write (Memory.set m i b) (i + 1) v) (i + k) = _
    cases k with
    | zero =>
      rw [Memory.get_write_outside (Memory.wf_set hm i b) (by omega), Memory.get_set hm]
      simp
    | succ k =>
      have := ih (Memory.wf_set hm i b) (i := i + 1) (k := k) (by omega)
      rw [show i + (k + 1) = i + 1 + k by omega, this]
      simp

/-- The payload of a complete Message holds its bytes, and 0x00 beyond them (R40, R174, R176). -/
theorem get_completeMsg (a : Addr) (v : List Byte) (multi : Bool) (k : Nat) :
    Memory.get (completeMsg a v multi).payload k = v.getD k 0 := by
  show Memory.get (Memory.write Memory.empty 0 v) k = _
  by_cases h : k < v.length
  · simpa using Memory.get_write_inside (m := Memory.empty) rfl (i := 0) h
  · rw [Memory.get_write_outside rfl (by omega)]
    simp [Memory.get, Memory.empty, List.getD_eq_getElem?_getD, List.getElem?_eq_none (not_lt.mp h)]

@[simp] theorem Memory.length_read (m : Memory) (i n : Nat) : (Memory.read m i n).length = n := by
  induction n generalizing i with
  | zero => rfl
  | succ n ih => simp [Memory.read, ih]

/-- Byte k of a `MemRead`. -/
theorem Memory.getD_read (m : Memory) (i : Nat) {n k : Nat} (h : k < n) :
    (Memory.read m i n).getD k 0 = Memory.get m (i + k) := by
  induction n generalizing i k with
  | zero => omega
  | succ n ih =>
    cases k with
    | zero => simp [Memory.read]
    | succ k =>
      have := ih (i + 1) (k := k) (by omega)
      simp only [Memory.read, List.getD_cons_succ, this]
      congr 1
      omega

/-- A `MemRead` byte by byte. -/
theorem Memory.read_eq_map (m : Memory) (i n : Nat) :
    Memory.read m i n = (List.range n).map (fun k => Memory.get m (i + k)) := by
  refine List.ext_getElem (by simp) fun k h1 h2 => ?_
  have h := Memory.getD_read m i (n := n) (k := k) (by simpa using h1)
  rw [List.getD_eq_getElem?_getD, List.getElem?_eq_getElem h1] at h
  simpa using h

/-- A `MemRead` of what a `MemWrite` has just written gives it back. -/
theorem Memory.read_write {m : Memory} (hm : m.wf = true) (i : Nat) (v : List Byte) :
    Memory.read (Memory.write m i v) i v.length = v := by
  refine List.ext_getElem (by simp) fun k h1 h2 => ?_
  have h := Memory.getD_read (Memory.write m i v) i (n := v.length) (k := k) (by simpa using h2)
  rw [Memory.get_write_inside hm h2] at h
  simpa [List.getD_eq_getElem?_getD, h1, h2] using h

/-- A shorter `MemRead` is a prefix of a longer one. -/
theorem Memory.take_read (m : Memory) (i : Nat) {n k : Nat} (h : k ≤ n) :
    (Memory.read m i n).take k = Memory.read m i k := by
  induction n generalizing i k with
  | zero => simp_all [Memory.read]
  | succ n ih =>
    cases k with
    | zero => simp [Memory.read]
    | succ k => simp [Memory.read, ih (i + 1) (k := k) (by omega)]

end Sys2Proof.Machine
end

