-- ==== Sys2Proof/Laws/State.lean ====
section
/-! SUPPORT. One lemma per field per update of the state, so that no proof unfolds a record update. -/

namespace Sys2Proof.Machine

variable (s : State)

/-! ### emit -/

@[simp] theorem emit_par (e : Event) : (emit e s).par = s.par := rfl
@[simp] theorem emit_cfg (e : Event) : (emit e s).cfg = s.cfg := rfl
@[simp] theorem emit_rx (e : Event) : (emit e s).rx = s.rx := rfl
@[simp] theorem emit_tx (e : Event) : (emit e s).tx = s.tx := rfl
@[simp] theorem emit_inbox (e : Event) : (emit e s).inbox = s.inbox := rfl
@[simp] theorem emit_answers (e : Event) : (emit e s).answers = s.answers := rfl
@[simp] theorem emit_asked (e : Event) : (emit e s).asked = s.asked := rfl
@[simp] theorem emit_out (e : Event) : (emit e s).out = { s.out with events := s.out.events ++ [e] } := rfl

/-! ### consumeAnswer -/

@[simp] theorem consumeAnswer_par : (consumeAnswer s).par = s.par := rfl
@[simp] theorem consumeAnswer_cfg : (consumeAnswer s).cfg = s.cfg := rfl
@[simp] theorem consumeAnswer_rx : (consumeAnswer s).rx = s.rx := rfl
@[simp] theorem consumeAnswer_tx : (consumeAnswer s).tx = s.tx := rfl
@[simp] theorem consumeAnswer_inbox : (consumeAnswer s).inbox = s.inbox := rfl
@[simp] theorem consumeAnswer_answers : (consumeAnswer s).answers = s.answers.tail := rfl
@[simp] theorem consumeAnswer_asked : (consumeAnswer s).asked = s.asked + 1 := rfl
@[simp] theorem consumeAnswer_out : (consumeAnswer s).out = s.out := rfl

/-! ### xmit -/

@[simp] theorem xmit_par (a : Addr) (F : List Byte) (n : Nat) : (xmit a F n s).par = s.par := rfl
@[simp] theorem xmit_cfg (a : Addr) (F : List Byte) (n : Nat) : (xmit a F n s).cfg = s.cfg := rfl
@[simp] theorem xmit_rx (a : Addr) (F : List Byte) (n : Nat) : (xmit a F n s).rx = s.rx := rfl
@[simp] theorem xmit_tx (a : Addr) (F : List Byte) (n : Nat) : (xmit a F n s).tx = s.tx := rfl
@[simp] theorem xmit_inbox (a : Addr) (F : List Byte) (n : Nat) : (xmit a F n s).inbox = s.inbox := rfl
@[simp] theorem xmit_answers (a : Addr) (F : List Byte) (n : Nat) : (xmit a F n s).answers = s.answers.tail := rfl
@[simp] theorem xmit_asked (a : Addr) (F : List Byte) (n : Nat) : (xmit a F n s).asked = s.asked + 1 := rfl
@[simp] theorem xmit_out (a : Addr) (F : List Byte) (n : Nat) : (xmit a F n s).out = { s.out with events := s.out.events ++ [xmitEvent a F n s] } := rfl

/-! ### alloc -/

@[simp] theorem alloc_par (n : Nat) : (alloc n s).par = s.par := rfl
@[simp] theorem alloc_cfg (n : Nat) : (alloc n s).cfg = s.cfg := rfl
@[simp] theorem alloc_rx (n : Nat) : (alloc n s).rx = s.rx := rfl
@[simp] theorem alloc_tx (n : Nat) : (alloc n s).tx = s.tx := rfl
@[simp] theorem alloc_inbox (n : Nat) : (alloc n s).inbox = s.inbox := rfl
@[simp] theorem alloc_answers (n : Nat) : (alloc n s).answers = s.answers.tail := rfl
@[simp] theorem alloc_asked (n : Nat) : (alloc n s).asked = s.asked + 1 := rfl
@[simp] theorem alloc_out (n : Nat) : (alloc n s).out = { s.out with events := s.out.events ++ [.alloc n] } := rfl

/-! ### free -/

@[simp] theorem free_par : (free s).par = s.par := rfl
@[simp] theorem free_cfg : (free s).cfg = s.cfg := rfl
@[simp] theorem free_rx : (free s).rx = { s.rx with buf := none } := rfl
@[simp] theorem free_tx : (free s).tx = s.tx := rfl
@[simp] theorem free_inbox : (free s).inbox = s.inbox := rfl
@[simp] theorem free_answers : (free s).answers = s.answers := rfl
@[simp] theorem free_asked : (free s).asked = s.asked := rfl
@[simp] theorem free_out : (free s).out = { s.out with events := s.out.events ++ [.free] } := rfl

/-! ### notifyRxComplete -/

@[simp] theorem notifyRxComplete_par (m : Message) : (notifyRxComplete m s).par = s.par := rfl
@[simp] theorem notifyRxComplete_cfg (m : Message) : (notifyRxComplete m s).cfg = s.cfg := rfl
@[simp] theorem notifyRxComplete_rx (m : Message) : (notifyRxComplete m s).rx = s.rx := rfl
@[simp] theorem notifyRxComplete_tx (m : Message) : (notifyRxComplete m s).tx = s.tx := rfl
@[simp] theorem notifyRxComplete_inbox (m : Message) : (notifyRxComplete m s).inbox = s.inbox := rfl
@[simp] theorem notifyRxComplete_answers (m : Message) : (notifyRxComplete m s).answers = s.answers := rfl
@[simp] theorem notifyRxComplete_asked (m : Message) : (notifyRxComplete m s).asked = s.asked := rfl
@[simp] theorem notifyRxComplete_out (m : Message) : (notifyRxComplete m s).out = { s.out with events := s.out.events ++ [.notifyRxComplete m] } := rfl

/-! ### notifyTxSent -/

@[simp] theorem notifyTxSent_par (a : Addr) (b : Bool) : (notifyTxSent a b s).par = s.par := rfl
@[simp] theorem notifyTxSent_cfg (a : Addr) (b : Bool) : (notifyTxSent a b s).cfg = s.cfg := rfl
@[simp] theorem notifyTxSent_rx (a : Addr) (b : Bool) : (notifyTxSent a b s).rx = s.rx := rfl
@[simp] theorem notifyTxSent_tx (a : Addr) (b : Bool) : (notifyTxSent a b s).tx = s.tx := rfl
@[simp] theorem notifyTxSent_inbox (a : Addr) (b : Bool) : (notifyTxSent a b s).inbox = s.inbox := rfl
@[simp] theorem notifyTxSent_answers (a : Addr) (b : Bool) : (notifyTxSent a b s).answers = s.answers := rfl
@[simp] theorem notifyTxSent_asked (a : Addr) (b : Bool) : (notifyTxSent a b s).asked = s.asked := rfl
@[simp] theorem notifyTxSent_out (a : Addr) (b : Bool) : (notifyTxSent a b s).out = { s.out with events := s.out.events ++ [.notifyTxSent a b] } := rfl

/-! ### start -/

@[simp] theorem start_par : (start s).par = s.par := rfl
@[simp] theorem start_cfg : (start s).cfg = s.cfg := rfl
@[simp] theorem start_rx : (start s).rx = s.rx := rfl
@[simp] theorem start_tx : (start s).tx = s.tx := rfl
@[simp] theorem start_inbox : (start s).inbox = s.inbox := rfl
@[simp] theorem start_answers : (start s).answers = s.answers := rfl
@[simp] theorem start_asked : (start s).asked = s.asked := rfl
@[simp] theorem start_out : (start s).out = Output.blank := rfl

/-! ### finish -/

@[simp] theorem finish_par (o : OutcomeName) (r : Result) : (finish o r s).par = s.par := rfl
@[simp] theorem finish_cfg (o : OutcomeName) (r : Result) : (finish o r s).cfg = s.cfg := rfl
@[simp] theorem finish_rx (o : OutcomeName) (r : Result) : (finish o r s).rx = s.rx := rfl
@[simp] theorem finish_tx (o : OutcomeName) (r : Result) : (finish o r s).tx = s.tx := rfl
@[simp] theorem finish_inbox (o : OutcomeName) (r : Result) : (finish o r s).inbox = s.inbox := rfl
@[simp] theorem finish_answers (o : OutcomeName) (r : Result) : (finish o r s).answers = s.answers := rfl
@[simp] theorem finish_asked (o : OutcomeName) (r : Result) : (finish o r s).asked = s.asked := rfl
@[simp] theorem finish_out (o : OutcomeName) (r : Result) : (finish o r s).out = { s.out with outcome := o, result := r } := rfl

/-! ### done -/

@[simp] theorem done_par (r : Result) : (done r s).par = s.par := rfl
@[simp] theorem done_cfg (r : Result) : (done r s).cfg = s.cfg := rfl
@[simp] theorem done_rx (r : Result) : (done r s).rx = s.rx := rfl
@[simp] theorem done_tx (r : Result) : (done r s).tx = s.tx := rfl
@[simp] theorem done_inbox (r : Result) : (done r s).inbox = s.inbox := rfl
@[simp] theorem done_answers (r : Result) : (done r s).answers = s.answers := rfl
@[simp] theorem done_asked (r : Result) : (done r s).asked = s.asked := rfl
@[simp] theorem done_out (r : Result) : (done r s).out = { s.out with outcome := .ok, result := r } := rfl

/-! ### taken -/

@[simp] theorem taken_par : (taken s).par = s.par := rfl
@[simp] theorem taken_cfg : (taken s).cfg = s.cfg := rfl
@[simp] theorem taken_rx : (taken s).rx = s.rx := rfl
@[simp] theorem taken_tx : (taken s).tx = s.tx := rfl
@[simp] theorem taken_inbox : (taken s).inbox = s.inbox.tail := rfl
@[simp] theorem taken_answers : (taken s).answers = s.answers := rfl
@[simp] theorem taken_asked : (taken s).asked = s.asked := rfl
@[simp] theorem taken_out : (taken s).out = s.out := rfl

/-! ### idle -/

@[simp] theorem idle_par : (idle s).par = s.par := rfl
@[simp] theorem idle_cfg : (idle s).cfg = s.cfg := rfl
@[simp] theorem idle_rx : (idle s).rx = s.rx := rfl
@[simp] theorem idle_tx : (idle s).tx = s.tx := rfl
@[simp] theorem idle_inbox : (idle s).inbox = s.inbox := rfl
@[simp] theorem idle_answers : (idle s).answers = s.answers := rfl
@[simp] theorem idle_asked : (idle s).asked = s.asked := rfl
@[simp] theorem idle_out : (idle s).out = Output.blank := rfl

/-! ### writePad -/

@[simp] theorem writePad_par (b : Bool) : (writePad b s).par = s.par := rfl
@[simp] theorem writePad_cfg (b : Bool) : (writePad b s).cfg = { s.cfg with pad := b } := rfl
@[simp] theorem writePad_rx (b : Bool) : (writePad b s).rx = s.rx := rfl
@[simp] theorem writePad_tx (b : Bool) : (writePad b s).tx = s.tx := rfl
@[simp] theorem writePad_inbox (b : Bool) : (writePad b s).inbox = s.inbox := rfl
@[simp] theorem writePad_answers (b : Bool) : (writePad b s).answers = s.answers := rfl
@[simp] theorem writePad_asked (b : Bool) : (writePad b s).asked = s.asked := rfl
@[simp] theorem writePad_out (b : Bool) : (writePad b s).out = Output.blank := rfl

/-! ### writeLogEn -/

@[simp] theorem writeLogEn_par (b : Bool) : (writeLogEn b s).par = s.par := rfl
@[simp] theorem writeLogEn_cfg (b : Bool) : (writeLogEn b s).cfg = { s.cfg with logEn := b } := rfl
@[simp] theorem writeLogEn_rx (b : Bool) : (writeLogEn b s).rx = s.rx := rfl
@[simp] theorem writeLogEn_tx (b : Bool) : (writeLogEn b s).tx = s.tx := rfl
@[simp] theorem writeLogEn_inbox (b : Bool) : (writeLogEn b s).inbox = s.inbox := rfl
@[simp] theorem writeLogEn_answers (b : Bool) : (writeLogEn b s).answers = s.answers := rfl
@[simp] theorem writeLogEn_asked (b : Bool) : (writeLogEn b s).asked = s.asked := rfl
@[simp] theorem writeLogEn_out (b : Bool) : (writeLogEn b s).out = Output.blank := rfl

/-! ### writeContext -/

@[simp] theorem writeContext_par (c : Ctx) : (writeContext c s).par = s.par := rfl
@[simp] theorem writeContext_cfg (c : Ctx) : (writeContext c s).cfg = { s.cfg with context := c } := rfl
@[simp] theorem writeContext_rx (c : Ctx) : (writeContext c s).rx = s.rx := rfl
@[simp] theorem writeContext_tx (c : Ctx) : (writeContext c s).tx = s.tx := rfl
@[simp] theorem writeContext_inbox (c : Ctx) : (writeContext c s).inbox = s.inbox := rfl
@[simp] theorem writeContext_answers (c : Ctx) : (writeContext c s).answers = s.answers := rfl
@[simp] theorem writeContext_asked (c : Ctx) : (writeContext c s).asked = s.asked := rfl
@[simp] theorem writeContext_out (c : Ctx) : (writeContext c s).out = Output.blank := rfl

/-! ### hardReset -/

@[simp] theorem hardReset_par : (hardReset s).par = s.par := rfl
@[simp] theorem hardReset_cfg : (hardReset s).cfg = Cfg.atReset := rfl
@[simp] theorem hardReset_rx : (hardReset s).rx = RxSession.atReset := rfl
@[simp] theorem hardReset_tx : (hardReset s).tx = TxSession.atReset := rfl
@[simp] theorem hardReset_inbox : (hardReset s).inbox = s.inbox := rfl
@[simp] theorem hardReset_answers : (hardReset s).answers = s.answers := rfl
@[simp] theorem hardReset_asked : (hardReset s).asked = s.asked := rfl
@[simp] theorem hardReset_out : (hardReset s).out = Output.blank := rfl

/-! ### place -/

@[simp] theorem place_par (p : Packet) : (place p s).par = s.par := rfl
@[simp] theorem place_cfg (p : Packet) : (place p s).cfg = s.cfg := rfl
@[simp] theorem place_rx (p : Packet) : (place p s).rx = s.rx := rfl
@[simp] theorem place_tx (p : Packet) : (place p s).tx = s.tx := rfl
@[simp] theorem place_inbox (p : Packet) : (place p s).inbox = .packet p :: s.inbox := rfl
@[simp] theorem place_answers (p : Packet) : (place p s).answers = s.answers := rfl
@[simp] theorem place_asked (p : Packet) : (place p s).asked = s.asked := rfl
@[simp] theorem place_out (p : Packet) : (place p s).out = s.out := rfl

/-! ### logOutcome and raise: an event at most -/

@[simp] theorem logOutcome_par (o : OutcomeName) : (logOutcome o s).par = s.par := by
  unfold logOutcome; split <;> rfl
@[simp] theorem logOutcome_cfg (o : OutcomeName) : (logOutcome o s).cfg = s.cfg := by
  unfold logOutcome; split <;> rfl
@[simp] theorem logOutcome_rx (o : OutcomeName) : (logOutcome o s).rx = s.rx := by
  unfold logOutcome; split <;> rfl
@[simp] theorem logOutcome_tx (o : OutcomeName) : (logOutcome o s).tx = s.tx := by
  unfold logOutcome; split <;> rfl
@[simp] theorem logOutcome_inbox (o : OutcomeName) : (logOutcome o s).inbox = s.inbox := by
  unfold logOutcome; split <;> rfl
@[simp] theorem logOutcome_answers (o : OutcomeName) : (logOutcome o s).answers = s.answers := by
  unfold logOutcome; split <;> rfl
@[simp] theorem logOutcome_asked (o : OutcomeName) : (logOutcome o s).asked = s.asked := by
  unfold logOutcome; split <;> rfl

@[simp] theorem raise_par (o : OutcomeName) (r : Result) : (raise o r s).par = s.par := by
  unfold raise; split <;> simp
@[simp] theorem raise_cfg (o : OutcomeName) (r : Result) : (raise o r s).cfg = s.cfg := by
  unfold raise; split <;> simp
@[simp] theorem raise_rx (o : OutcomeName) (r : Result) : (raise o r s).rx = s.rx := by
  unfold raise; split <;> simp
@[simp] theorem raise_tx (o : OutcomeName) (r : Result) : (raise o r s).tx = s.tx := by
  unfold raise; split <;> simp
@[simp] theorem raise_inbox (o : OutcomeName) (r : Result) : (raise o r s).inbox = s.inbox := by
  unfold raise; split <;> simp
@[simp] theorem raise_answers (o : OutcomeName) (r : Result) : (raise o r s).answers = s.answers := by
  unfold raise; split <;> simp
@[simp] theorem raise_asked (o : OutcomeName) (r : Result) : (raise o r s).asked = s.asked := by
  unfold raise; split <;> simp

/-- The events after `Log(o)`: one more exactly if logging is enabled (R254). -/
theorem logOutcome_out (o : OutcomeName) :
    (logOutcome o s).out = { s.out with
      events := s.out.events ++ (if s.cfg.logEn then [.log o s.cfg.context] else []) } := by
  unfold logOutcome; split <;> simp

/-- The output after `raise o r`: outcome, result, and the log event if `o` is logged and logging is
enabled (R270). -/
theorem raise_out (o : OutcomeName) (r : Result) :
    (raise o r s).out =
      { outcome := o
        result := r
        events := s.out.events ++
          (if o.logged && s.cfg.logEn then [.log o s.cfg.context] else []) } := by
  unfold raise
  split <;> simp_all [logOutcome_out]

/-- What `raise` leaves: the state with another output. -/
theorem raise_eq (o : OutcomeName) (r : Result) :
    raise o r s = { s with
      out := { outcome := o
               result := r
               events := s.out.events ++
                 (if o.logged && s.cfg.logEn then [.log o s.cfg.context] else []) } } := by
  rw [← raise_out]
  unfold raise logOutcome
  repeat' split
  all_goals rfl

/-- An outcome that is not logged adds no event. -/
theorem raise_out_of_not_logged {o : OutcomeName} (r : Result) (h : o.logged = false) :
    (raise o r s).out = { outcome := o, result := r, events := s.out.events } := by
  simp [raise_out, h]

/-! ### The next answer does not depend on what has been output -/

@[simp] theorem nextAnswer_start : nextAnswer (start s) = nextAnswer s := rfl

@[simp] theorem nextAnswer_emit (e : Event) : nextAnswer (emit e s) = nextAnswer s := rfl

/-- The answer listed first is the next one. -/
@[simp] theorem nextAnswer_cons (b : Bool) (l : List Bool) :
    nextAnswer { s with answers := b :: l } = b := rfl

/-- The length and the event of `Xmit` depend on the configuration only. -/
@[simp] theorem xmitLen_start (n : Nat) : xmitLen (start s) n = xmitLen s n := rfl

@[simp] theorem xmitEvent_start (a : Addr) (F : List Byte) (n : Nat) :
    xmitEvent a F n (start s) = xmitEvent a F n s := rfl

end Sys2Proof.Machine
end

