-- ==== Sys2Proof/Laws/Receive.lean ====
section
/-! SUPPORT. What each operation of the Receive Session does, once. -/

namespace Sys2Proof.Machine

variable {a : Addr} {f : Frame} {s t : State} {o : OutcomeName}

/-- Byte k of a run read from a frame (R11, R68). -/
theorem getElem?_frame_read {i n k : Nat} (hk : k < n) (h8 : i + k < 8) :
    (bytesRead f.bytes.toList i n)[k]? = some (frameByte f (i + k)) := by
  have h : i + k < f.bytes.toList.length := h8
  rw [bytesRead, List.getElem?_take_of_lt hk, List.getElem?_drop, frameByte,
    List.getD_eq_getElem?_getD, List.getElem?_eq_getElem h]
  rfl

/-- An ignored frame changes nothing but the output (R172). -/
theorem rxIgnore_eq (h : o.logged = false) :
    rxIgnore o a s = .next { s with
      out := { outcome := o, result := .message (ignoreMsg a), events := s.out.events } } := by
  simp [rxIgnore, raise_eq, h]

/-- The entry checks pass (R171). -/
theorem rxEnter_pass {k : State → Answer} (h1 : s.rx.state ≠ .closed) (h2 : f.dlen.val ≠ 0)
    (h3 : a = s.rx.srcAddr) : rxEnter a f s k = k s := by
  simp [rxEnter, h1, h2, h3]

/-- The entry checks: ignored, unlogged, or passed on (R171). -/
theorem rxEnter_cases (k : State → Answer) :
    (∃ o, o.logged = false ∧ rxEnter a f s k = rxIgnore o a s) ∨
    (s.rx.state ≠ .closed ∧ f.dlen.val ≠ 0 ∧ a = s.rx.srcAddr ∧ rxEnter a f s k = k s) := by
  unfold rxEnter
  split_ifs with h1 h2 h3
  · exact .inl ⟨_, rfl, rfl⟩
  · exact .inl ⟨_, rfl, rfl⟩
  · exact .inl ⟨_, rfl, rfl⟩
  · exact .inr ⟨h1, h2, not_not.mp h3, rfl⟩

/-- The Single-frame handler: ignored, or the session completes (R174). -/
theorem rxSingle_cases :
    (∃ o, o.logged = false ∧ rxSingle a f s = rxIgnore o a s) ∨
    (s.rx.state = .awaitFf ∧ ∃ bytes, bytes.length ≤ 7 ∧
      rxSingle a f s = .next { s with
        rx := { s.rx with msg := completeMsg a bytes false, state := .complete }
        out := { outcome := .ok
                 result := .message (completeMsg a bytes false)
                 events := s.out.events ++ [.notifyRxComplete (completeMsg a bytes false)] } }) := by
  unfold rxSingle
  split
  · exact .inl ⟨_, rfl, rfl⟩
  · rename_i hs
    split
    · exact .inl ⟨_, rfl, rfl⟩
    · rename_i dl _
      split
      · exact .inl ⟨_, rfl, rfl⟩
      · rename_i hm
        refine .inr ⟨not_not.mp hs, bytesRead f.bytes.toList 1 dl, ?_, rfl⟩
        simp only [Config.sfMax, not_or, not_lt] at hm
        simp only [length_bytesRead, length_toList]
        omega

/-- `FF_DL` is at most 4095 (R99). -/
theorem decFfDl_le {total : Nat} (h : decFfDl f = some total) : total ≤ 4095 := by
  unfold decFfDl fieldAt at h
  split at h
  · obtain rfl := Option.some.inj h
    have := (loNibble f.bytes.b0).isLt
    have := f.bytes.b1.isLt
    omega
  · cases h

@[simp] theorem length_ffBuffer (k : Nat) (f : Frame) (total : Nat) :
    (ffBuffer k f total).length = total := by
  simp [ffBuffer]

/-- The First-frame handler: ignored, too long, refused by the allocator, or accepted (R175). -/
theorem rxFirst_cases :
    (∃ o, o.logged = false ∧ rxFirst a f s = rxIgnore o a s) ∨
    (s.rx.state = .awaitFf ∧ ∃ total, total ≤ 4095 ∧
      ((s.par.maxMsg < total ∧
        rxFirst a f s = .next (raise .rxRejTooLong (.message (ignoreMsg a)) s)) ∨
       (total ≤ s.par.maxMsg ∧ nextAnswer s = false ∧
        rxFirst a f s = .next (raise .rxRejAlloc (.message (ignoreMsg a)) (alloc total s))) ∨
       (total ≤ s.par.maxMsg ∧ nextAnswer s = true ∧
        rxFirst a f s = .next (rxAcceptFirst a f total s.asked (alloc total s))))) := by
  unfold rxFirst
  split
  · exact .inl ⟨_, rfl, rfl⟩
  · rename_i hs
    split
    · exact .inl ⟨_, rfl, rfl⟩
    · rename_i total ht
      refine .inr ⟨not_not.mp hs, total, decFfDl_le ht, ?_⟩
      split
      · exact .inl ⟨‹_›, rfl⟩
      · rename_i hle
        cases hb : nextAnswer s
        · exact .inr (.inl ⟨not_lt.mp hle, rfl, by simp⟩)
        · exact .inr (.inr ⟨not_lt.mp hle, rfl, by simp⟩)

/-- The state after an accepted First frame (R175). -/
theorem rxAcceptFirst_eq (total k : Nat) :
    rxAcceptFirst a f total k s = { s with
      rx := { s.rx with buf := some (ffBuffer k f total)
                        expected := toLen total
                        received := toLen (ffCount f total)
                        state := .reassembling }
      answers := s.answers.tail
      asked := s.asked + 1
      out := { outcome := .ok
               result := .message (partialMsg a)
               events := s.out.events ++ [xmitEvent s.rx.replyAddr grantFrame 3 s] } } := rfl

/-- What has been received and what is taken now is a number of `LEN_W` bits. -/
theorem received_fits : s.rx.received.toNat + cfCount f s ≤ 65535 := by
  have h : cfCount f s ≤ s.rx.expected.toNat - s.rx.received.toNat := Nat.min_le_right _ _
  have := len_le s.rx.expected
  have := len_le s.rx.received
  omega

/-- The Consecutive-frame handler on a live buffer that holds the expected bytes: full, short, or going
on (R176). -/
theorem rxConsecutive_eq {b : List Byte} (h1 : s.rx.state = .reassembling) (h2 : s.rx.buf = some b)
    (h3 : s.rx.expected.toNat ≤ b.length) :
    rxConsecutive a f s =
      let b' := bytesWrite b s.rx.received.toNat (bytesRead f.bytes.toList 1 (cfCount f s))
      let m := completeMsg a (bytesRead b' 0 s.rx.expected.toNat) true
      .next (
        if s.rx.received.toNat + cfCount f s = s.rx.expected.toNat then { s with
          rx := { s.rx with buf := none
                            received := toLen (s.rx.received.toNat + cfCount f s)
                            msg := m
                            state := .complete }
          out := { outcome := .ok
                   result := .message m
                   events := s.out.events ++ [.free] ++ [.notifyRxComplete m] } }
        else if rxMissing s ≤ 7 then { s with
          rx := { s.rx with buf := none
                            received := toLen (s.rx.received.toNat + cfCount f s)
                            state := .failed }
          out := { outcome := .rxFailReassembly
                   result := .message (partialMsg a)
                   events := s.out.events ++ [.free] ++ logEvents s .rxFailReassembly } }
        else { s with
          rx := { s.rx with buf := some b'
                            received := toLen (s.rx.received.toNat + cfCount f s) }
          out := { outcome := .ok
                   result := .message (partialMsg a)
                   events := s.out.events } }) := by
  simp only [rxConsecutive, h1, h2, ne_eq, not_true_eq_false, if_false, Nat.not_lt.mpr h3, Config.cfData,
    toLen_eq_iff received_fits]
  split_ifs with h4 h5
  · rfl
  · simp only [rxShort, raise_eq]
    rfl
  · rfl

/-! ### Dispatch (R173) -/

theorem rxDispatch_single (h : decType f = some 0) : rxDispatch a f s = rxSingle a f s := by
  simp [rxDispatch, h]

theorem rxDispatch_first (h : decType f = some 1) : rxDispatch a f s = rxFirst a f s := by
  simp [rxDispatch, h]

theorem rxDispatch_consecutive (h : decType f = some 2) :
    rxDispatch a f s = rxConsecutive a f s := by
  simp [rxDispatch, h]

/-- Flow control and unrecognized types (R177). -/
theorem rxDispatch_other {k : Nat} (h : decType f = some k) (hk : 3 ≤ k) :
    rxDispatch a f s = rxOtherType a s := by
  unfold rxDispatch
  rw [h]
  split <;> first | rfl | (rename_i h; have := Option.some.inj h; omega)

end Sys2Proof.Machine
end

