-- ==== Sys2Proof/Laws/Send.lean ====
section
/-! SUPPORT. What each operation of the Send Session does, once. -/

namespace Sys2Proof.Machine

variable {f : Frame} {s : State}

/-- The transfer fails with an unlogged outcome: state, one notification, the result (R210, R219). -/
theorem txFail_eq {o : OutcomeName} (h : o.logged = false) (r : Result) :
    txFail o r s = { s with
      tx := { s.tx with state := .failed }
      out := { outcome := o
               result := r
               events := s.out.events ++ [.notifyTxSent s.tx.addr false] } } := by
  simp [txFail, raise_eq, h, notifyTxSent, emit]

/-- `Xmit` as a record (R250). -/
theorem xmit_eq (a : Addr) (F : List Byte) (n : Nat) :
    xmit a F n s = { s with
      answers := s.answers.tail
      asked := s.asked + 1
      out := { s.out with events := s.out.events ++ [xmitEvent a F n s] } } := rfl

/-- What `Xmit` of a whole `FRAME` hands over is the used bytes, padded with 0x00 when padding is on, if
the bytes beyond the used ones are 0x00 (R103, R251). -/
theorem xmitEvent_eq {a : Addr} {F u : List Byte} (hF : F.length = 8)
    (hu : F = u ++ List.replicate (8 - u.length) 0) : xmitEvent a F u.length s = wireEvent s a u := by
  have hle : u.length ≤ 8 := by
    have := congrArg List.length hu
    simp only [hF, List.length_append, List.length_replicate] at this
    omega
  unfold xmitEvent wireEvent onWire xmitLen Config.frameCap
  by_cases hp : s.cfg.pad = true
  · simp only [hp, if_true, ← hu, hF]
    rw [List.take_of_length_le (by omega)]
  · have h : F.take u.length = u := by rw [hu]; simp
    simp only [hp, if_false, Bool.false_eq_true, h]

/-- The validation of TX_FC: ignored, rejected as malformed, or passed on (R213, R218). -/
theorem txFcEnter_cases (k : State → Answer) :
    (s.tx.state ≠ .active ∧ txFcEnter f s k = .next (raise .txFcIgnState (.bool false) s)) ∨
    (s.tx.state = .active ∧ txFcEnter f s k = .next (raise .txFcRejFormat (.bool false) s)) ∨
    (s.tx.state = .active ∧ s.par.fcMinLen ≤ f.dlen.val ∧ decType f = some 3 ∧
      txFcEnter f s k = k s) := by
  unfold txFcEnter
  split_ifs with h1 h2
  · exact .inl ⟨h1, rfl⟩
  · exact .inr (.inl ⟨not_not.mp h1, rfl⟩)
  · simp only [not_or, not_lt, not_not] at h2
    exact .inr (.inr ⟨not_not.mp h1, h2.1, h2.2, rfl⟩)

/-- No transfer is active (R218). -/
theorem txFcEnter_inactive {k : State → Answer} (h : s.tx.state ≠ .active) :
    txFcEnter f s k = .next (raise .txFcIgnState (.bool false) s) := by
  simp [txFcEnter, h]

/-- A frame that is too short or of another type (R213). -/
theorem txFcEnter_malformed {k : State → Answer} (h1 : s.tx.state = .active)
    (h2 : f.dlen.val < s.par.fcMinLen ∨ decType f ≠ some 3) :
    txFcEnter f s k = .next (raise .txFcRejFormat (.bool false) s) := by
  simp [txFcEnter, h1, h2]

/-- The validation passes (R213). -/
theorem txFcEnter_pass {k : State → Answer} (h1 : s.tx.state = .active)
    (h2 : s.par.fcMinLen ≤ f.dlen.val) (h3 : decType f = some 3) : txFcEnter f s k = k s := by
  simp [txFcEnter, h1, h3, Nat.not_lt.mpr h2]

/-- Continue: the permitted count, or, when the block size is absent, a rejection (R214). -/
theorem txFcContinue_cases :
    txFcContinue f s = .next (raise .txFcRejFormat (.bool false) s) ∨
    ∃ ts, txFcContinue f s =
      .next (done (.bool true) { s with tx := { s.tx with toSend := ts } }) := by
  unfold txFcContinue
  split
  · exact .inl rfl
  · exact .inr ⟨_, rfl⟩

/-- The `FRAME` of a Single frame: the length, the payload, zeros (R92, R210). -/
theorem singleFrameBytes_eq (h : s.tx.len.toNat ≤ 7) :
    singleFrameBytes s = some (withPayload (header 0 (BitVec.ofNat 4 s.tx.len.toNat) 0 0) 1
      (Memory.read s.tx.msg 0 s.tx.len.toNat)) := by
  simp only [singleFrameBytes, encSf_of_le h]

/-- The `FRAME` of a First frame, when the length fits 12 bits (R93, R211). -/
theorem firstFrameBytes_eq (h : s.tx.len.toNat ≤ 4095) :
    firstFrameBytes s = some (withPayload
      (header 1 (s.tx.len.extractLsb' 8 4) (s.tx.len.extractLsb' 0 8) 0)
      2 (Memory.read s.tx.msg 0 6)) := by
  simp [firstFrameBytes, encFf_of_le h, Config.ffData]

/-- No First frame can be built for a length that does not fit 12 bits (R142, R211). -/
theorem firstFrameBytes_none (h : 4095 < s.tx.len.toNat) : firstFrameBytes s = none := by
  simp only [firstFrameBytes, encFf, if_pos h]

/-- The `FRAME` of the next Consecutive frame (R94, R219); the header always fits. -/
theorem nextCfBytes_eq :
    nextCfBytes s = some (withPayload (header 2 s.tx.seq 0 0) 1
      (Memory.read s.tx.msg s.tx.offset.toNat (cfPayloadCount s))) := by
  simp [nextCfBytes, encCf_zeroExtend]

/-- The single-frame path (R210). -/
theorem txSingle_eq (h : s.tx.len.toNat ≤ 7) :
    ∃ F : List Byte, singleFrameBytes s = some F ∧ F.length = 8 ∧ txSingle s = { s with
      tx := { s.tx with
        state := if nextAnswer s then .complete else .failed
        offset := if nextAnswer s then s.tx.len else s.tx.offset }
      answers := s.answers.tail
      asked := s.asked + 1
      out := { outcome := if nextAnswer s then .ok else .txErrXmit
               result := .flags true (nextAnswer s)
               events := s.out.events ++ [xmitEvent s.tx.addr F (1 + s.tx.len.toNat) s] ++
                 [.notifyTxSent s.tx.addr (nextAnswer s)] } } := by
  refine ⟨_, singleFrameBytes_eq h, by simp, ?_⟩
  simp only [txSingle, singleFrameBytes_eq h]
  cases nextAnswer s
  · simp [txFail_eq (o := .txErrXmit) rfl, xmit_eq]
  · rfl

/-- The first frame, once encoded, is a whole `FRAME` (R211). -/
theorem length_firstFrameBytes {F : List Byte} (h : firstFrameBytes s = some F) : F.length = 8 := by
  unfold firstFrameBytes at h
  split at h
  · obtain rfl := Option.some.inj h
    simp
  · cases h

/-- The multi-frame path, when the header can be encoded (R211). -/
theorem txMulti_eq {F : List Byte} (h : firstFrameBytes s = some F) :
    txMulti s =
      if nextAnswer s then { s with
        tx := { s.tx with state := .active, offset := 6, seq := 1, toSend := .count 0 }
        answers := s.answers.tail
        asked := s.asked + 1
        out := { outcome := .ok
                 result := .flags false false
                 events := s.out.events ++ [xmitEvent s.tx.addr F 8 s] } }
      else { s with
        tx := { s.tx with state := .failed }
        answers := s.answers.tail
        asked := s.asked + 1
        out := { outcome := .txErrXmit
                 result := .flags true false
                 events := s.out.events ++ [xmitEvent s.tx.addr F 8 s] ++
                   [.notifyTxSent s.tx.addr false] } } := by
  simp only [txMulti, h]
  cases nextAnswer s
  · simp [txFail_eq (o := .txErrXmit) rfl, xmit_eq]
  · rfl

/-- The multi-frame path, when the header cannot be encoded (R211). -/
theorem txMulti_encode (h : firstFrameBytes s = none) :
    txMulti s = txFail .txErrEncode (.flags true false) s := by
  simp [txMulti, h]

/-- What has been sent and what is sent now is a number of `LEN_W` bits (R222). -/
theorem offset_fits : s.tx.offset.toNat + cfPayloadCount s ≤ 65535 := by
  have h : cfPayloadCount s ≤ s.tx.len.toNat - s.tx.offset.toNat := Nat.min_le_right _ _
  have := len_le s.tx.len
  have := len_le s.tx.offset
  omega

/-- One Consecutive frame: accepted or refused (R219). -/
theorem txPump_eq :
    ∃ F : List Byte, nextCfBytes s = some F ∧ F.length = 8 ∧ txPump s =
      if nextAnswer s then { s with
        tx := { s.tx with
          state := if s.tx.offset.toNat + cfPayloadCount s = s.tx.len.toNat then .complete else s.tx.state
          seq := s.tx.seq + 1
          offset := toLen (s.tx.offset.toNat + cfPayloadCount s)
          toSend := afterOneFrame s.tx.toSend }
        answers := s.answers.tail
        asked := s.asked + 1
        out := { outcome := .ok
                 result := .bool true
                 events := s.out.events ++ [xmitEvent s.tx.addr F (1 + cfPayloadCount s) s] ++
                   (if s.tx.offset.toNat + cfPayloadCount s = s.tx.len.toNat then [.notifyTxSent s.tx.addr true]
                    else []) } }
      else { s with
        tx := { s.tx with state := .failed }
        answers := s.answers.tail
        asked := s.asked + 1
        out := { outcome := .txErrXmit
                 result := .bool false
                 events := s.out.events ++ [xmitEvent s.tx.addr F (1 + cfPayloadCount s) s] ++
                   [.notifyTxSent s.tx.addr false] } } := by
  refine ⟨_, nextCfBytes_eq, by simp, ?_⟩
  simp only [txPump, nextCfBytes_eq]
  cases nextAnswer s
  · simp [txFail_eq (o := .txErrXmit) rfl, xmit_eq]
  · have hi := toLen_eq_iff (offset_fits (s := s)) s.tx.len
    by_cases h : s.tx.offset.toNat + cfPayloadCount s = s.tx.len.toNat
    · simp only [if_true, txCompleteIfLast, txAdvance, xmit_eq, h, toLen_toNat]
      rfl
    · simp only [if_true, txCompleteIfLast, txAdvance, xmit_eq, hi, h, if_false, List.append_nil]
      rfl

/-- TX_BEGIN of at most 7 bytes (R212). -/
theorem execTxBegin_short {a : Addr} {d : List Byte} {len : Nat} (h : len ≤ s.par.maxMsg)
    (h7 : len ≤ 7) : execTxBegin a d len s = .next (txSingle (txCapture a d len (start s))) := by
  simp [execTxBegin, Nat.not_lt.mpr h, Config.sfMax, h7]

/-- TX_BEGIN of 8 bytes or more (R212). -/
theorem execTxBegin_long {a : Addr} {d : List Byte} {len : Nat} (h : len ≤ s.par.maxMsg)
    (h8 : 8 ≤ len) : execTxBegin a d len s = .next (txMulti (txCapture a d len (start s))) := by
  simp [execTxBegin, Nat.not_lt.mpr h, Config.sfMax, show ¬ len ≤ 7 by omega]

/-- TX_CONTINUE with a frame to send that lies in `TXMSG` (R219). -/
theorem execTxContinue_pump (h1 : s.tx.state = .active) (h2 : mayTransmit s.tx.toSend = true)
    (h3 : s.tx.offset.toNat + cfPayloadCount s ≤ s.par.maxMsg) :
    execTxContinue s = .next (txPump (start s)) := by
  have h3 : ¬ (start s).par.maxMsg < (start s).tx.offset.toNat + cfPayloadCount (start s) :=
    Nat.not_lt.mpr h3
  unfold execTxContinue
  dsimp only
  rw [if_neg (not_not.mpr (show (start s).tx.state = .active from h1)),
    if_neg (show ¬ mayTransmit (start s).tx.toSend = false by simp [h2]), if_neg h3]

/-! ### Dispatch on the status (R213 step 4) -/

theorem txFcDispatch_continue (h : decFcFs f = some 0) : txFcDispatch f s = txFcContinue f s := by
  simp [txFcDispatch, h]

theorem txFcDispatch_wait (h : decFcFs f = some 1) : txFcDispatch f s = txFcWait s := by
  simp [txFcDispatch, h]

theorem txFcDispatch_overflow (h : decFcFs f = some 2) : txFcDispatch f s = txFcOverflow s := by
  simp [txFcDispatch, h]

/-- Any other status (R217). -/
theorem txFcDispatch_other {k : Nat} (h : decFcFs f = some k) (hk : 3 ≤ k) :
    txFcDispatch f s = txFcOtherStatus s := by
  unfold txFcDispatch
  rw [h]
  split <;> first | rfl | (rename_i h; have := Option.some.inj h; omega)

end Sys2Proof.Machine
end

