-- ==== Sys2Proof/Laws/Context.lean ====
section
/-! SUPPORT. The shared operations pass the context on and do not read it (43_shim.md R258): each commutes
with `State.withContext`; and the host's write of the context (10_state.md R21). -/

namespace Sys2Proof.Machine

variable {s t : State} {c : Ctx} {a : Addr}

/-! ### Fields -/

@[simp] theorem withContext_par : (s.withContext c).par = s.par := rfl
@[simp] theorem withContext_rx : (s.withContext c).rx = s.rx := rfl
@[simp] theorem withContext_tx : (s.withContext c).tx = s.tx := rfl
@[simp] theorem withContext_inbox : (s.withContext c).inbox = s.inbox := rfl
@[simp] theorem withContext_answers : (s.withContext c).answers = s.answers := rfl
@[simp] theorem withContext_asked : (s.withContext c).asked = s.asked := rfl
@[simp] theorem withContext_cfg : (s.withContext c).cfg = { s.cfg with context := c } := rfl
@[simp] theorem withContext_out : (s.withContext c).out =
    { s.out with events := s.out.events.map (Event.withContext c) } := rfl
@[simp] theorem nextAnswer_withContext : nextAnswer (s.withContext c) = nextAnswer s := rfl

/-! ### Shared operations -/

theorem start_withContext : start (s.withContext c) = (start s).withContext c := rfl

theorem emit_withContext (e : Event) :
    emit (e.withContext c) (s.withContext c) = (emit e s).withContext c := by
  simp [emit, State.withContext]

theorem alloc_withContext (n : Nat) : alloc n (s.withContext c) = (alloc n s).withContext c :=
  congrArg consumeAnswer (emit_withContext (.alloc n))

theorem free_withContext : free (s.withContext c) = (free s).withContext c := by
  simp [free, emit, State.withContext, Event.withContext]

theorem notifyRxComplete_withContext (m : Message) :
    notifyRxComplete m (s.withContext c) = (notifyRxComplete m s).withContext c :=
  emit_withContext (.notifyRxComplete m)

theorem notifyTxSent_withContext (ok : Bool) :
    notifyTxSent a ok (s.withContext c) = (notifyTxSent a ok s).withContext c :=
  emit_withContext (.notifyTxSent a ok)

theorem xmitEvent_withContext (F : List Byte) (n : Nat) :
    xmitEvent a F n (s.withContext c) = (xmitEvent a F n s).withContext c := rfl

theorem xmit_withContext (F : List Byte) (n : Nat) :
    xmit a F n (s.withContext c) = (xmit a F n s).withContext c := by
  rw [xmit_eq, xmit_eq, xmitEvent_withContext]
  simp [State.withContext]

theorem raise_withContext (o : OutcomeName) (r : Result) :
    raise o r (s.withContext c) = (raise o r s).withContext c := by
  simp only [raise_eq, State.withContext]
  cases o.logged <;> cases s.cfg.logEn <;> simp [Event.withContext]

theorem done_withContext (r : Result) : done r (s.withContext c) = (done r s).withContext c := rfl

/-! ### The host's write -/

/-- The write takes effect exactly for a value of `CTX` (R8, R21). -/
theorem hostWritesContext_eq_next :
    hostWritesContext c s = .next t ↔ s.par.ctxOk c = true ∧ t = writeContext c s := by
  unfold hostWritesContext
  split
  · rename_i h
    exact ⟨fun e => ⟨h, (Host.Outcome.next.inj e).symm⟩, fun e => by rw [e.2]⟩
  · rename_i h
    exact ⟨fun e => (nomatch e), fun e => absurd e.1 h⟩

/-- The context at reset is a value of `CTX`, whatever the parameters. -/
theorem ctxOk_atReset {p : Params} (h : p.wf = true) : p.ctxOk Cfg.atReset.context = true := by
  simp only [Params.wf, Bool.and_eq_true, decide_eq_true_eq] at h
  unfold Params.ctxOk
  split
  · rfl
  · rename_i n hn
    exact decide_eq_true (Nat.pos_of_ne_zero fun h0 => h.2 (h0 ▸ hn))

end Sys2Proof.Machine
end

