-- ==== Sys2Proof/Laws/Effect.lean ====
section
/-! SUPPORT. Everything an instruction can do when it answers a next state, said once: `Effect` lists the
state changes of the block, and `exec_effect` shows that there is no other. -/

namespace Sys2Proof.Machine

/-- What a frame presented to the Receive Session can do, and which instruction presents it
(41_receive.md). -/
inductive RxEffect (i : Instr) (s : State) : State → Prop where
  /-- An allocation was refused (R175). -/
  | refused (n : Nat) (r : Result) : PresentsFirst i → RxEffect i s { s with
      answers := s.answers.tail
      asked := s.asked + 1
      out := { outcome := .rxRejAlloc
               result := r
               events := .alloc n :: logEvents s .rxRejAlloc } }
  /-- A Single frame was delivered (R174). -/
  | single (bytes : List Byte) : PresentsSingle i → s.rx.state = .awaitFf → bytes.length ≤ 7 →
    RxEffect i s { s with
      rx := { s.rx with msg := completeMsg s.rx.srcAddr bytes false, state := .complete }
      out := { outcome := .ok
               result := .message (completeMsg s.rx.srcAddr bytes false)
               events := [.notifyRxComplete (completeMsg s.rx.srcAddr bytes false)] } }
  /-- A First frame was accepted (R175). -/
  | accepted (b : List Byte) (got : Nat) : PresentsFirst i → s.rx.state = .awaitFf →
      b.length ≤ s.par.maxMsg → b.length ≤ 4095 → got ≤ b.length → nextAnswer s = true →
      RxEffect i s { s with
        rx := { s.rx with buf := some b, expected := toLen b.length, received := toLen got
                          state := .reassembling }
        answers := s.answers.tail.tail
        asked := s.asked + 2
        out := { outcome := .ok
                 result := .message (partialMsg s.rx.srcAddr)
                 events := [.alloc b.length, xmitEvent s.rx.replyAddr grantFrame 3 s] } }
  /-- A Consecutive frame made the buffer exactly full (R176). -/
  | full (b : List Byte) : PresentsConsecutive i → s.rx.state = .reassembling →
      b.length = s.rx.expected.toNat → RxEffect i s { s with
      rx := { s.rx with buf := none, received := s.rx.expected
                        msg := completeMsg s.rx.srcAddr b true
                        state := .complete }
      out := { outcome := .ok
               result := .message (completeMsg s.rx.srcAddr b true)
               events := [.free, .notifyRxComplete (completeMsg s.rx.srcAddr b true)] } }
  /-- The final Consecutive frame fell short (R176). -/
  | short (got : Nat) : PresentsConsecutive i → s.rx.state = .reassembling → got ≤ rxMissing s →
      s.rx.received.toNat + got ≠ s.rx.expected.toNat → RxEffect i s { s with
      rx := { s.rx with buf := none, received := toLen (s.rx.received.toNat + got), state := .failed }
      out := { outcome := .rxFailReassembly
               result := .message (partialMsg s.rx.srcAddr)
               events := .free :: logEvents s .rxFailReassembly } }
  /-- A Consecutive frame was taken and more are needed (R176). -/
  | more (b b' : List Byte) (got : Nat) : PresentsConsecutive i → s.rx.state = .reassembling →
      s.rx.buf = some b → b'.length = b.length → got ≤ rxMissing s → RxEffect i s { s with
        rx := { s.rx with buf := some b', received := toLen (s.rx.received.toNat + got) }
        out := { outcome := .ok
                 result := .message (partialMsg s.rx.srcAddr)
                 events := [] } }

/-- `i` presents an Overflow frame to the Send Session: FC.OVFLW, or TX_FC with type 3 and status 2
(R216). -/
abbrev PresentsOverflow (i : Instr) : Prop :=
  (∃ a bs st tl n, i = .fcOvflw a bs st tl n) ∨
    ∃ a f, i = .txFc a f ∧ decType f = some 3 ∧ decFcFs f = some 2

/-- What a flow-control frame or TX_CONTINUE can do to the Send Session (42_send.md). -/
inductive TxEffect (i : Instr) (s : State) : State → Prop where
  /-- Continue or Wait (R214, R215). -/
  | granted (ts : ToSend) : s.tx.state = .active → TxEffect i s { s with
      tx := { s.tx with toSend := ts }
      out := { outcome := .ok, result := .bool true, events := [] } }
  /-- Overflow (R216). -/
  | overflow : PresentsOverflow i → s.tx.state = .active → TxEffect i s { s with
      tx := { s.tx with state := .failed }
      out := { outcome := .txFcOverflow
               result := .bool true
               events := [.notifyTxSent s.tx.addr false] } }
  /-- The transport accepted a Consecutive frame (R219). -/
  | sent (F : List Byte) (ts : ToSend) : i = .txContinue → s.tx.state = .active →
      mayTransmit s.tx.toSend = true → F.length = 8 →
      s.tx.offset.toNat + cfPayloadCount s ≤ s.par.maxMsg → TxEffect i s { s with
        tx := { s.tx with
          state := if s.tx.offset.toNat + cfPayloadCount s = s.tx.len.toNat then .complete else .active
          seq := s.tx.seq + 1
          offset := toLen (s.tx.offset.toNat + cfPayloadCount s)
          toSend := ts }
        answers := s.answers.tail
        asked := s.asked + 1
        out := { outcome := .ok
                 result := .bool true
                 events := xmitEvent s.tx.addr F (1 + cfPayloadCount s) s ::
                   (if s.tx.offset.toNat + cfPayloadCount s = s.tx.len.toNat then
                      [.notifyTxSent s.tx.addr true] else []) } }
  /-- The transport refused a Consecutive frame (R219). -/
  | lost (F : List Byte) : i = .txContinue → s.tx.state = .active →
      mayTransmit s.tx.toSend = true → F.length = 8 → TxEffect i s { s with
      tx := { s.tx with state := .failed }
      answers := s.answers.tail
      asked := s.asked + 1
      out := { outcome := .txErrXmit
               result := .bool false
               events := [xmitEvent s.tx.addr F (1 + cfPayloadCount s) s,
                          .notifyTxSent s.tx.addr false] } }

/-- The Send Session after TX_BEGIN has captured its message (R212). -/
def begun (a : Addr) (d : List Byte) (len : Nat) (s : State) : TxSession :=
  (txCapture a d len s).tx

/-- What TX_BEGIN can do (R210, R211). -/
inductive BeginEffect (a : Addr) (d : List Byte) (len : Nat) (s : State) : State → Prop where
  /-- The transport accepted the Single frame. -/
  | single (F : List Byte) : len ≤ 7 → F.length = 8 → nextAnswer s = true →
      BeginEffect a d len s { s with
        tx := { begun a d len s with state := .complete, offset := toLen len }
        answers := s.answers.tail
        asked := s.asked + 1
        out := { outcome := .ok
                 result := .flags true true
                 events := [xmitEvent a F (1 + len) s, .notifyTxSent a true] } }
  /-- The transport accepted the First frame. -/
  | multi (F : List Byte) : 8 ≤ len → (s.par.maxMsg ≤ 65535 → len ≤ 4095) → F.length = 8 →
      nextAnswer s = true → BeginEffect a d len s { s with
        tx := { begun a d len s with state := .active, offset := 6 }
        answers := s.answers.tail
        asked := s.asked + 1
        out := { outcome := .ok
                 result := .flags false false
                 events := [xmitEvent a F 8 s] } }
  /-- The transport refused the frame. -/
  | lost (F : List Byte) (n : Nat) : F.length = 8 → 1 ≤ n → n ≤ 8 → nextAnswer s = false →
      BeginEffect a d len s { s with
        tx := { begun a d len s with state := .failed }
        answers := s.answers.tail
        asked := s.asked + 1
        out := { outcome := .txErrXmit
                 result := .flags true false
                 events := [xmitEvent a F n s, .notifyTxSent a false] } }
  /-- The length does not fit the header. -/
  | tooLong : 8 ≤ len → BeginEffect a d len s { s with
      tx := { begun a d len s with state := .failed }
      out := { outcome := .txErrEncode
               result := .flags true false
               events := [.notifyTxSent a false] } }

/-- What an instruction can do. -/
inductive Effect (i : Instr) (s : State) : State → Prop where
  /-- Only the output changes: a frame or command without effect, a rejection, a codec function. -/
  | output (o : OutcomeName) (r : Result) : (∀ a d n, i ≠ .txBegin a d n) → (∀ a r, i ≠ .rxOpen a r) →
      Effect i s { s with
        out := { outcome := o, result := r, events := if o.logged then logEvents s o else [] } }
  | opened (a r : Addr) : i = .rxOpen a r → Effect i s { s with
      rx := { s.rx with srcAddr := a, replyAddr := r, expected := 0, received := 0, state := .awaitFf
                        buf := none }
      out := { outcome := .ok, result := .none, events := if rxBufLive s then [.free] else [] } }
  | rx {t : State} : receives i = true → (∀ a r, i ≠ .rxOpen a r) → RxEffect i s t → Effect i s t
  | tx {t : State} : sends i = true → (∀ a d n, i ≠ .txBegin a d n) → TxEffect i s t → Effect i s t
  | begin {t : State} (a : Addr) (d : List Byte) (len : Nat) : i = .txBegin a d len →
      len ≤ s.par.maxMsg → BeginEffect a d len s t → Effect i s t

variable {i : Instr} {s t : State} {a : Addr} {f : Frame} {k : State → Answer}

/-! ### The Receive Session -/

/-- RX_OPEN (R170). -/
theorem execRxOpen_eq (a r : Addr) (s : State) : execRxOpen a r s = .next { s with
    rx := { s.rx with srcAddr := a, replyAddr := r, expected := 0, received := 0, state := .awaitFf
                      buf := none }
    out := { outcome := .ok, result := .none, events := if rxBufLive s then [.free] else [] } } := by
  obtain ⟨par, cfg, ⟨st, src, rep, ex, rc, buf, msg⟩, tx, ib, an, ask, out⟩ := s
  cases buf <;> rfl

/-- What a handler that answers a next state has done: only the output, or one of `RxEffect`. -/
abbrev RxAnswers (i : Instr) (s : State) (x : Answer) : Prop := ∀ t, x = .next t →
  (∃ o r, t = { s with
    out := { outcome := o, result := r, events := if o.logged then logEvents s o else [] } }) ∨
  RxEffect i s t

theorem rxIgnore_answers {o : OutcomeName} (h : o.logged = false) :
    RxAnswers i s (rxIgnore o a (start s)) := by
  intro t ht
  rw [rxIgnore_eq h] at ht
  exact .inl ⟨o, .message (ignoreMsg a), by rw [← Host.Outcome.next.inj ht, h]; rfl⟩

theorem rxSingle_answers (hp : PresentsSingle i) :
    RxAnswers i s (rxSingle s.rx.srcAddr f (start s)) := by
  intro t ht
  rcases rxSingle_cases (a := s.rx.srcAddr) (f := f) (s := start s) with
    ⟨o, h, he⟩ | ⟨h1, bytes, h2, he⟩
  · exact rxIgnore_answers h t (he ▸ ht)
  · rw [he] at ht
    obtain rfl := Host.Outcome.next.inj ht
    exact .inr (.single bytes hp h1 h2)

theorem rxFirst_answers (hp : PresentsFirst i) :
    RxAnswers i s (rxFirst s.rx.srcAddr f (start s)) := by
  intro t ht
  rcases rxFirst_cases (a := s.rx.srcAddr) (f := f) (s := start s) with
    ⟨o, h, he⟩ | ⟨h1, total, h2, ⟨-, he⟩ | ⟨-, -, he⟩ | ⟨h3, h4, he⟩⟩
  · exact rxIgnore_answers h t (he ▸ ht)
  · rw [he, raise_eq] at ht
    obtain rfl := Host.Outcome.next.inj ht
    exact .inl ⟨_, _, rfl⟩
  · rw [he, raise_eq] at ht
    obtain rfl := Host.Outcome.next.inj ht
    exact .inr (.refused total _ hp)
  · rw [he, rxAcceptFirst_eq] at ht
    obtain rfl := Host.Outcome.next.inj ht
    have := RxEffect.accepted (s := s) (ffBuffer s.asked f total) (ffCount f total) hp h1
      (by simpa using h3) (by simpa using h2) (by simp [ffCount]) h4
    rw [length_ffBuffer] at this
    exact .inr this

theorem rxConsecutive_answers (hp : PresentsConsecutive i) :
    RxAnswers i s (rxConsecutive s.rx.srcAddr f (start s)) := by
  intro t ht
  by_cases h1 : s.rx.state = .reassembling
  · cases h2 : s.rx.buf with
    | none => simp [rxConsecutive, h1, h2] at ht
    | some b =>
      by_cases h3 : s.rx.expected.toNat ≤ b.length
      · rw [rxConsecutive_eq (s := start s) h1 h2 h3] at ht
        have hc : cfCount f (start s) ≤ rxMissing s := Nat.min_le_right _ _
        obtain rfl := Host.Outcome.next.inj ht
        right
        split_ifs with h4 h5
        · have := RxEffect.full (s := s) (bytesRead (bytesWrite b s.rx.received.toNat
            (bytesRead f.bytes.toList 1 (cfCount f (start s)))) 0 s.rx.expected.toNat) hp h1
            (by simp only [length_bytesRead, length_bytesWrite]; omega)
          have h4 : s.rx.received.toNat + cfCount f (start s) = s.rx.expected.toNat := h4
          simp only [start_rx, h4, toLen_toNat]
          exact this
        · exact .short _ hp h1 hc h4
        · exact .more b _ _ hp h1 h2 (by simp) hc
      · simp [rxConsecutive, h1, h2, Nat.lt_of_not_le h3] at ht
  · refine rxIgnore_answers (a := s.rx.srcAddr) (o := .rxIgnState) rfl t ?_
    rw [← ht]
    simp [rxConsecutive, h1]

theorem rxEnter_answers (h : a = s.rx.srcAddr → RxAnswers i s (k (start s))) :
    RxAnswers i s (rxEnter a f (start s) k) := by
  intro t ht
  rcases rxEnter_cases (a := a) (f := f) (s := start s) k with ⟨o, ho, he⟩ | ⟨-, -, ha, he⟩
  · exact rxIgnore_answers ho t (he ▸ ht)
  · exact h ha t (he ▸ ht)

theorem rxOtherType_answers : RxAnswers i s (rxOtherType a (start s)) := rxIgnore_answers rfl

theorem rxDispatch_answers (hi : i = .rxFrame a f) :
    RxAnswers i s (rxDispatch s.rx.srcAddr f (start s)) := by
  unfold rxDispatch
  split
  · exact rxSingle_answers (.inr ⟨a, f, hi, ‹_›⟩)
  · exact rxFirst_answers (.inr ⟨a, f, hi, ‹_›⟩)
  · exact rxConsecutive_answers (.inr ⟨a, f, hi, ‹_›⟩)
  · exact rxOtherType_answers

/-- A handler's answer as an effect of the instruction that runs it. -/
theorem rx_effect {x : Answer} (hr : receives i = true) (hb : ∀ a d n, i ≠ .txBegin a d n)
    (ho : ∀ a r, i ≠ .rxOpen a r) (h : RxAnswers i s x) (ht : x = .next t) : Effect i s t := by
  rcases h t ht with ⟨o, r, rfl⟩ | h
  · exact .output o r hb ho
  · exact .rx hr ho h

/-! ### The Send Session -/

/-- What a handler of TX_FC that answers a next state has done. -/
abbrev TxAnswers (i : Instr) (s : State) (x : Answer) : Prop := ∀ t, x = .next t →
  (∃ o r, t = { s with
    out := { outcome := o, result := r, events := if o.logged then logEvents s o else [] } }) ∨
  TxEffect i s t

theorem txRaise_answers (o : OutcomeName) (r : Result) : TxAnswers i s (.next (raise o r (start s))) := by
  intro t ht
  rw [raise_eq] at ht
  obtain rfl := Host.Outcome.next.inj ht
  refine .inl ⟨o, r, ?_⟩
  cases o.logged <;> rfl

theorem txFcEnter_answers (h : s.tx.state = .active → decType f = some 3 → TxAnswers i s (k (start s))) :
    TxAnswers i s (txFcEnter f (start s) k) := by
  rcases txFcEnter_cases (f := f) (s := start s) k with ⟨-, he⟩ | ⟨-, he⟩ | ⟨h1, -, h3, he⟩
  · exact he ▸ txRaise_answers _ _
  · exact he ▸ txRaise_answers _ _
  · exact he ▸ h h1 h3

theorem txFcContinue_answers (h : s.tx.state = .active) : TxAnswers i s (txFcContinue f (start s)) := by
  rcases txFcContinue_cases (f := f) (s := start s) with he | ⟨ts, he⟩
  · exact he ▸ txRaise_answers _ _
  · intro t ht
    rw [he] at ht
    obtain rfl := Host.Outcome.next.inj ht
    exact .inr (.granted ts h)

theorem txFcWait_answers (h : s.tx.state = .active) : TxAnswers i s (txFcWait (start s)) := by
  intro t ht
  obtain rfl := Host.Outcome.next.inj ht
  exact .inr (.granted _ h)

theorem txFcOverflow_answers (hp : PresentsOverflow i) (h : s.tx.state = .active) :
    TxAnswers i s (txFcOverflow (start s)) := by
  intro t ht
  unfold txFcOverflow at ht
  rw [txFail_eq rfl] at ht
  obtain rfl := Host.Outcome.next.inj ht
  exact .inr (.overflow hp h)

theorem txFcOtherStatus_answers : TxAnswers i s (txFcOtherStatus (start s)) := txRaise_answers _ _

theorem txFcDispatch_answers (hi : i = .txFc a f) (h : s.tx.state = .active)
    (h3 : decType f = some 3) : TxAnswers i s (txFcDispatch f (start s)) := by
  unfold txFcDispatch
  split
  · exact txFcContinue_answers h
  · exact txFcWait_answers h
  · exact txFcOverflow_answers (.inr ⟨a, f, hi, h3, ‹_›⟩) h
  · exact txFcOtherStatus_answers

theorem txContinue_answers (hi : i = .txContinue) : TxAnswers i s (execTxContinue s) := by
  intro t ht
  unfold execTxContinue at ht
  dsimp only at ht
  split_ifs at ht with h1 h2 h3
  · obtain rfl := Host.Outcome.next.inj ht
    exact .inl ⟨.ok, _, rfl⟩
  · obtain rfl := Host.Outcome.next.inj ht
    exact .inl ⟨.ok, _, rfl⟩
  · obtain ⟨F, -, hF, he⟩ := txPump_eq (s := start s)
    rw [he] at ht
    have h1 : s.tx.state = .active := not_not.mp h1
    have h2 : mayTransmit s.tx.toSend = true := by simpa using h2
    obtain rfl := Host.Outcome.next.inj ht
    right
    dsimp only
    split
    · have := TxEffect.sent (s := s) F (afterOneFrame s.tx.toSend) hi h1 h2 hF (not_lt.mp h3)
      rw [← h1] at this
      exact this
    · exact .lost F hi h1 h2 hF

/-- A handler's answer as an effect of the instruction that runs it. -/
theorem tx_effect {x : Answer} (hr : sends i = true) (hb : ∀ a d n, i ≠ .txBegin a d n)
    (ho : ∀ a r, i ≠ .rxOpen a r) (h : TxAnswers i s x) (ht : x = .next t) : Effect i s t := by
  rcases h t ht with ⟨o, r, rfl⟩ | h
  · exact .output o r hb ho
  · exact .tx hr hb h

/-- TX_BEGIN (R210 to R212). -/
theorem execTxBegin_effect {d : List Byte} {len : Nat} (ht : execTxBegin a d len s = .next t) :
    len ≤ s.par.maxMsg ∧ BeginEffect a d len s t := by
  unfold execTxBegin at ht
  split at ht
  · cases ht
  · rename_i hl
    refine ⟨not_lt.mp hl, ?_⟩
    obtain rfl := Host.Outcome.next.inj ht
    have hA : nextAnswer (txCapture a d len (start s)) = nextAnswer s := rfl
    split_ifs with h7
    · have hn : (txCapture a d len (start s)).tx.len.toNat = len :=
        toNat_toLen (by simp only [Config.sfMax] at h7; omega)
      obtain ⟨F, -, hF, he⟩ := txSingle_eq (s := txCapture a d len (start s)) (hn.trans_le h7)
      rw [he, hn, hA]
      cases hb : nextAnswer s
      · exact .lost F (1 + len) hF (by omega) (by simp only [Config.sfMax] at h7; omega) hb
      · exact .single F h7 hF hb
    · have h8 : 8 ≤ len := by simp only [Config.sfMax] at h7; omega
      cases h : firstFrameBytes (txCapture a d len (start s)) with
      | none =>
        rw [txMulti_encode h, txFail_eq rfl]
        exact .tooLong h8
      | some F =>
        have hF := length_firstFrameBytes h
        rw [txMulti_eq h, hA]
        cases hb : nextAnswer s
        · exact .lost F 8 hF (by omega) (by omega) hb
        · refine .multi F h8 (fun hp => not_lt.mp fun hc => ?_) hF hb
          have hn : (txCapture a d len (start s)).tx.len.toNat = len := toNat_toLen (by omega)
          have := firstFrameBytes_none (s := txCapture a d len (start s)) (by omega)
          simp [h] at this

/-! ### Every instruction -/

/-- Everything an instruction can do when it answers a next state. -/
theorem exec_effect (h : exec i s = .next t) : Effect i s t := by
  cases i with
  | sf a dl tl n =>
    exact rx_effect rfl (by simp) (by simp) (rxEnter_answers fun ha =>
      ha ▸ rxSingle_answers (.inl ⟨_, _, _, _, rfl⟩)) h
  | ff a x tl n =>
    exact rx_effect rfl (by simp) (by simp) (rxEnter_answers fun ha =>
      ha ▸ rxFirst_answers (.inl ⟨_, _, _, _, rfl⟩)) h
  | cf a sn tl n =>
    exact rx_effect rfl (by simp) (by simp) (rxEnter_answers fun ha =>
      ha ▸ rxConsecutive_answers (.inl ⟨_, _, _, _, rfl⟩)) h
  | rsvdType4to7 a tt low tl n =>
    exact rx_effect rfl (by simp) (by simp) (rxEnter_answers fun _ => rxOtherType_answers) h
  | rsvdType8to15 a tt low tl n =>
    exact rx_effect rfl (by simp) (by simp) (rxEnter_answers fun _ => rxOtherType_answers) h
  | rxFrame a f =>
    exact rx_effect rfl (by simp) (by simp) (rxEnter_answers fun ha => ha ▸ rxDispatch_answers rfl) h
  | rxOpen a r =>
    obtain rfl := Host.Outcome.next.inj ((execRxOpen_eq a r s).symm.trans h)
    exact .opened a r rfl
  | fcCts a bs st tl n =>
    exact tx_effect rfl (by simp) (by simp) (txFcEnter_answers fun h _ => txFcContinue_answers h) h
  | fcWait a bs st tl n =>
    exact tx_effect rfl (by simp) (by simp) (txFcEnter_answers fun h _ => txFcWait_answers h) h
  | fcOvflw a bs st tl n =>
    exact tx_effect rfl (by simp) (by simp) (txFcEnter_answers fun h _ =>
      txFcOverflow_answers (.inl ⟨_, _, _, _, _, rfl⟩) h) h
  | fcRsvd3 a bs st tl n =>
    exact tx_effect rfl (by simp) (by simp) (txFcEnter_answers fun _ _ => txFcOtherStatus_answers) h
  | fcRsvd4to7 a ss bs st tl n =>
    exact tx_effect rfl (by simp) (by simp) (txFcEnter_answers fun _ _ => txFcOtherStatus_answers) h
  | fcRsvd8to15 a ss bs st tl n =>
    exact tx_effect rfl (by simp) (by simp) (txFcEnter_answers fun _ _ => txFcOtherStatus_answers) h
  | txFc a f =>
    exact tx_effect rfl (by simp) (by simp) (txFcEnter_answers (txFcDispatch_answers rfl)) h
  | txContinue => exact tx_effect rfl (by simp) (by simp) (txContinue_answers rfl) h
  | txBegin a d len =>
    obtain ⟨h1, h2⟩ := execTxBegin_effect h
    exact .begin a d len rfl h1 h2
  | decType f => exact Host.Outcome.next.inj h ▸ .output .ok _ (by simp) (by simp)
  | decSfDl f => exact Host.Outcome.next.inj h ▸ .output .ok _ (by simp) (by simp)
  | decFfDl f => exact Host.Outcome.next.inj h ▸ .output .ok _ (by simp) (by simp)
  | decCfSn f => exact Host.Outcome.next.inj h ▸ .output .ok _ (by simp) (by simp)
  | decFcFs f => exact Host.Outcome.next.inj h ▸ .output .ok _ (by simp) (by simp)
  | decFcBs f => exact Host.Outcome.next.inj h ▸ .output .ok _ (by simp) (by simp)
  | decFcSt f => exact Host.Outcome.next.inj h ▸ .output .ok _ (by simp) (by simp)
  | encSf x => exact Host.Outcome.next.inj h ▸ .output .ok _ (by simp) (by simp)
  | encFf x => exact Host.Outcome.next.inj h ▸ .output .ok _ (by simp) (by simp)
  | encCf x => exact Host.Outcome.next.inj h ▸ .output .ok _ (by simp) (by simp)
  | encFc x y z => exact Host.Outcome.next.inj h ▸ .output .ok _ (by simp) (by simp)

end Sys2Proof.Machine
end

