-- ==== Sys2Proof/Laws/PerInstr.lean ====
section
/-! SUPPORT. Per instruction: the packet of an instruction that can be presented keeps every line of the
port in its range (30_encoding.md R69, R107). -/

namespace Sys2Proof.Laws.Presentable

/-- The packet of a well-formed instruction: the address lines fit `ADDR_W` bits, `dlen` or `length` and
the data line fit the larger of `FRAME_CAP` and `MAX_MSG`. -/
def Statement (i : Instr) : Prop := ∀ p : Params, i.wf p = true →
  (encode i).addr < 2 ^ p.addrW ∧ (encode i).reply < 2 ^ p.addrW ∧
    (encode i).len ≤ max Config.frameCap p.maxMsg ∧
    (encode i).data.length ≤ max Config.frameCap p.maxMsg

/-- A packet that carries a frame from an address in range. -/
theorem frame_lines {p : Params} {sel : Select} {a : Addr} {f : Frame} (h : a < 2 ^ p.addrW) :
    (framePacket sel a f).addr < 2 ^ p.addrW ∧ (framePacket sel a f).reply < 2 ^ p.addrW ∧
      (framePacket sel a f).len ≤ max Config.frameCap p.maxMsg ∧
      (framePacket sel a f).data.length ≤ max Config.frameCap p.maxMsg :=
  ⟨h, Nat.two_pow_pos _, le_max_of_le_left (Nat.le_of_lt_succ f.dlen.isLt), le_max_left _ _⟩

/-- A packet whose lines are all at zero but for the arguments of an encode function. -/
theorem blank_lines {p : Params} {sel : Select} {x y z : Half} :
    let q := { blankPacket sel with arg0 := x, arg1 := y, arg2 := z }
    q.addr < 2 ^ p.addrW ∧ q.reply < 2 ^ p.addrW ∧ q.len ≤ max Config.frameCap p.maxMsg ∧
      q.data.length ≤ max Config.frameCap p.maxMsg :=
  ⟨Nat.two_pow_pos _, Nat.two_pow_pos _, Nat.zero_le _, Nat.zero_le _⟩

/-- Both of two checks hold. -/
theorem and_true_split {x y : Bool} (h : (x && y) = true) : x = true ∧ y = true :=
  Bool.and_eq_true_iff.mp h

/-- The address check as an inequality. -/
theorem addr_lt {p : Params} {a : Addr} (h : p.addrOk a = true) : a < 2 ^ p.addrW := of_decide_eq_true h

theorem sf (addr : Addr) (dl : Nibble) (tail : Tail1) (dlen : Fin 9) :
    Statement (.sf addr dl tail dlen) := fun _ h =>
  frame_lines (addr_lt (and_true_split h).1)

theorem ff (addr : Addr) (total : BitVec 12) (tail : Tail2) (dlen : Fin 9) :
    Statement (.ff addr total tail dlen) := fun _ h =>
  frame_lines (addr_lt (and_true_split h).1)

theorem cf (addr : Addr) (sn : Nibble) (tail : Tail1) (dlen : Fin 9) :
    Statement (.cf addr sn tail dlen) := fun _ h =>
  frame_lines (addr_lt (and_true_split h).1)

theorem fcCts (addr : Addr) (bs st : Byte) (tail : Tail3) (dlen : Fin 9) :
    Statement (.fcCts addr bs st tail dlen) := fun _ h =>
  frame_lines (addr_lt (and_true_split h).1)

theorem fcWait (addr : Addr) (bs st : Byte) (tail : Tail3) (dlen : Fin 9) :
    Statement (.fcWait addr bs st tail dlen) := fun _ h =>
  frame_lines (addr_lt (and_true_split h).1)

theorem fcOvflw (addr : Addr) (bs st : Byte) (tail : Tail3) (dlen : Fin 9) :
    Statement (.fcOvflw addr bs st tail dlen) := fun _ h =>
  frame_lines (addr_lt (and_true_split h).1)

theorem fcRsvd3 (addr : Addr) (bs st : Byte) (tail : Tail3) (dlen : Fin 9) :
    Statement (.fcRsvd3 addr bs st tail dlen) := fun _ h =>
  frame_lines (addr_lt (and_true_split h).1)

theorem fcRsvd4to7 (addr : Addr) (ss : BitVec 2) (bs st : Byte) (tail : Tail3) (dlen : Fin 9) :
    Statement (.fcRsvd4to7 addr ss bs st tail dlen) := fun _ h =>
  frame_lines (addr_lt (and_true_split h).1)

theorem fcRsvd8to15 (addr : Addr) (ss : BitVec 3) (bs st : Byte) (tail : Tail3) (dlen : Fin 9) :
    Statement (.fcRsvd8to15 addr ss bs st tail dlen) := fun _ h =>
  frame_lines (addr_lt (and_true_split h).1)

theorem rsvdType4to7 (addr : Addr) (tt : BitVec 2) (low : Nibble) (tail : Tail1) (dlen : Fin 9) :
    Statement (.rsvdType4to7 addr tt low tail dlen) := fun _ h =>
  frame_lines (addr_lt (and_true_split h).1)

theorem rsvdType8to15 (addr : Addr) (tt : BitVec 3) (low : Nibble) (tail : Tail1) (dlen : Fin 9) :
    Statement (.rsvdType8to15 addr tt low tail dlen) := fun _ h =>
  frame_lines (addr_lt (and_true_split h).1)

theorem rxOpen (source reply : Addr) : Statement (.rxOpen source reply) := fun _ h =>
  have h := and_true_split h
  ⟨addr_lt h.1, addr_lt h.2, Nat.zero_le _, Nat.zero_le _⟩

theorem rxFrame (addr : Addr) (f : Frame) : Statement (.rxFrame addr f) := fun _ h =>
  frame_lines (addr_lt h)

theorem txBegin (addr : Addr) (payload : List Byte) (length : Nat) :
    Statement (.txBegin addr payload length) := fun _ h =>
  have h := and_true_split h
  have h2 := and_true_split h.2
  have hd := of_decide_eq_true h2.2
  ⟨addr_lt h.1, Nat.two_pow_pos _, le_max_of_le_right ((of_decide_eq_true h2.1).trans hd),
    le_max_of_le_right hd⟩

theorem txFc (addr : Addr) (f : Frame) : Statement (.txFc addr f) := fun _ h =>
  frame_lines (addr_lt h)

theorem txContinue : Statement .txContinue := fun _ _ =>
  blank_lines

theorem decType (f : Frame) : Statement (.decType f) := fun _ _ =>
  frame_lines (Nat.two_pow_pos _)

theorem decSfDl (f : Frame) : Statement (.decSfDl f) := fun _ _ =>
  frame_lines (Nat.two_pow_pos _)

theorem decFfDl (f : Frame) : Statement (.decFfDl f) := fun _ _ =>
  frame_lines (Nat.two_pow_pos _)

theorem decCfSn (f : Frame) : Statement (.decCfSn f) := fun _ _ =>
  frame_lines (Nat.two_pow_pos _)

theorem decFcFs (f : Frame) : Statement (.decFcFs f) := fun _ _ =>
  frame_lines (Nat.two_pow_pos _)

theorem decFcBs (f : Frame) : Statement (.decFcBs f) := fun _ _ =>
  frame_lines (Nat.two_pow_pos _)

theorem decFcSt (f : Frame) : Statement (.decFcSt f) := fun _ _ =>
  frame_lines (Nat.two_pow_pos _)

theorem encSf (dl : Half) : Statement (.encSf dl) := fun _ _ =>
  blank_lines

theorem encFf (total : Half) : Statement (.encFf total) := fun _ _ =>
  blank_lines

theorem encCf (sn : Half) : Statement (.encCf sn) := fun _ _ =>
  blank_lines

theorem encFc (fs bs st : Half) : Statement (.encFc fs bs st) := fun _ _ =>
  blank_lines

end Sys2Proof.Laws.Presentable
end

