-- ==== Sys2Proof/Tests/Slice0.lean ====
section
/-! SUPPORT. The package's own tests: well-formedness, decoding, one step at a time from the vectors of
95_test_vectors.md, and a witness for the hypotheses of every statement that has some. -/

namespace Sys2Proof.Tests

open Sys2Proof.Machine

/-! ### Builders -/

/-- The frame whose valid bytes are `l`. -/
def frame (l : List Byte) : Frame :=
  { bytes := ⟨l.getD 0 0, l.getD 1 0, l.getD 2 0, l.getD 3 0, l.getD 4 0, l.getD 5 0, l.getD 6 0,
      l.getD 7 0⟩
    dlen := Fin.ofNat 9 l.length }

/-- Logging on, as the vectors assume. -/
def logging : State := { State.reset with cfg := { State.reset.cfg with logEn := true } }

/-- A Receive Session after RX_OPEN src=0x100 reply=0x101. -/
def opened : State :=
  { logging with rx := { logging.rx with state := .awaitFf, srcAddr := 0x100, replyAddr := 0x101 } }

/-- A Receive Session that has received bytes 1, 2, … of a message. -/
def reassembling (received expected : Nat) : State :=
  { opened with rx := { opened.rx with
      state := .reassembling
      received := toLen received
      expected := toLen expected
      buf := some ((List.range expected).map fun k =>
        if k < received then BitVec.ofNat 8 (k + 1) else 0xEE) } }

/-- A Send Session that has sent the first 6 bytes of the message 1, 2, …, len at 0x7E0. -/
def sending (len : Nat) (permit : ToSend) : State :=
  { logging with tx := { logging.tx with
      state := .active
      addr := 0x7E0
      len := toLen len
      msg := Memory.write Memory.empty 0 ((List.range len).map fun k => BitVec.ofNat 8 (k + 1))
      offset := 6
      seq := 1
      toSend := permit } }

/-- The environment's answers to the next calls. -/
def answering (l : List Bool) (s : State) : State := { s with answers := l }

/-- A state with a request at the head of its inbox. -/
def asked (r : Request) (s : State) : State := { s with inbox := [r] }

/-- The output of a step. -/
def seen : Answer → Option Output
  | .next t => some t.out
  | .fault _ => none
  | .refused _ => none

/-- The Receive Session's state and counters after a step. -/
def rxSeen : Answer → Option (RxState × Len × Len × Bool)
  | .next t => some (t.rx.state, t.rx.received, t.rx.expected, rxBufLive t)
  | .fault _ => none
  | .refused _ => none

/-- The Send Session's state and counters after a step. -/
def txSeen : Answer → Option (TxState × Len × BitVec 4 × ToSend)
  | .next t => some (t.tx.state, t.tx.offset, t.tx.seq, t.tx.toSend)
  | .fault _ => none
  | .refused _ => none

/-- A frame instruction's packet with its bytes, from address 0x100. -/
def wire (l : List Byte) (dlen : Nat) : Packet :=
  { blankPacket .frame with addr := 0x100, data := l, len := dlen }

/-! ### WellFormed refuses -/

theorem test_wf_address_too_wide :
    Instr.wf { maxMsg := 4095, addrW := 11, fcMinLen := 3, ctxSize := none } (.rxFrame 0x800 (frame [1, 2])) = false := by
  decide

theorem test_wf_address_widest :
    Instr.wf { maxMsg := 4095, addrW := 11, fcMinLen := 3, ctxSize := none } (.rxFrame 0x7FF (frame [1, 2])) = true := by
  decide

theorem test_wf_open_source_too_wide :
    Instr.wf { maxMsg := 4095, addrW := 11, fcMinLen := 3, ctxSize := none } (.rxOpen 0x800 0) = false := by decide

theorem test_wf_open_reply_too_wide :
    Instr.wf { maxMsg := 4095, addrW := 11, fcMinLen := 3, ctxSize := none } (.rxOpen 0 0x800) = false := by decide

theorem test_wf_frame_needs_a_first_byte :
    Instr.wf Params.recommended (.sf 0 0 ⟨0, 0, 0, 0, 0, 0, 0⟩ 0) = false := by decide

theorem test_wf_length_beyond_payload :
    Instr.wf Params.recommended (.txBegin 0 [1, 2] 3) = false := by decide

theorem test_wf_payload_beyond_max_msg :
    Instr.wf { maxMsg := 8, addrW := 11, fcMinLen := 3, ctxSize := none } (.txBegin 0 [1, 2, 3, 4, 5, 6, 7, 8, 9] 8)
      = false := by decide

theorem test_wf_payload_at_max_msg :
    Instr.wf { maxMsg := 8, addrW := 11, fcMinLen := 3, ctxSize := none } (.txBegin 0 [1, 2, 3, 4, 5, 6, 7, 8] 8)
      = true := by decide

/-! ### The decoder rejects by name -/

theorem test_decode_no_such_command :
    decode (blankPacket (.command 0b101)) = .error .noSuchCommand ∧
    decode (blankPacket (.command 0b110)) = .error .noSuchCommand ∧
    decode (blankPacket (.command 0b111)) = .error .noSuchCommand := ⟨rfl, rfl, rfl⟩

theorem test_decode_no_such_function :
    decode (blankPacket (.codec 11)) = .error .noSuchFunction ∧
    decode (blankPacket (.codec 15)) = .error .noSuchFunction := ⟨rfl, rfl⟩

theorem test_decode_seven_bytes : decode (wire [0x30, 0, 0, 0, 0, 0, 0] 3) = .error .frameNotEightBytes := rfl

theorem test_decode_nine_valid_bytes :
    decode (wire [0x30, 0, 0, 0, 0, 0, 0, 0] 9) = .error .dlenOutOfRange := rfl

/-! ### Every constructor's decoding, from the encodings of the opcode table and R91 to R107 -/

theorem test_decode_sf : decodeTableWord 24 0b0000_0010_10101010_10111011 =
    some (.sf 0 2 ⟨0xAA, 0xBB, 0, 0, 0, 0, 0⟩ 3) := by decide

theorem test_decode_ff : decodeTableWord 24 0b0001_1010_10111100_11011110 =
    some (.ff 0 0xABC ⟨0xDE, 0, 0, 0, 0, 0⟩ 3) := by decide

theorem test_decode_cf : decodeTableWord 24 0b0010_1111_00000111_00001000 =
    some (.cf 0 15 ⟨7, 8, 0, 0, 0, 0, 0⟩ 3) := by decide

theorem test_decode_fcCts : decodeTableWord 24 0b00110000_00001000_00010100 =
    some (.fcCts 0 8 20 ⟨0, 0, 0, 0, 0⟩ 3) := by decide

theorem test_decode_fcWait : decodeTableWord 24 0b00110001_00000101_00000000 =
    some (.fcWait 0 5 0 ⟨0, 0, 0, 0, 0⟩ 3) := by decide

theorem test_decode_fcOvflw : decodeTableWord 24 0b00110010_00000000_01111111 =
    some (.fcOvflw 0 0 127 ⟨0, 0, 0, 0, 0⟩ 3) := by decide

theorem test_decode_fcRsvd3 : decodeTableWord 24 0b00110011_00000001_00000010 =
    some (.fcRsvd3 0 1 2 ⟨0, 0, 0, 0, 0⟩ 3) := by decide

theorem test_decode_fcRsvd4to7 : decodeTableWord 24 0b001101_10_00000001_00000010 =
    some (.fcRsvd4to7 0 0b10 1 2 ⟨0, 0, 0, 0, 0⟩ 3) := by decide

theorem test_decode_fcRsvd8to15 : decodeTableWord 24 0b00111_101_00000001_00000010 =
    some (.fcRsvd8to15 0 0b101 1 2 ⟨0, 0, 0, 0, 0⟩ 3) := by decide

theorem test_decode_rsvdType4to7 : decodeTableWord 24 0b01_11_1001_00000001_00000010 =
    some (.rsvdType4to7 0 0b11 9 ⟨1, 2, 0, 0, 0, 0, 0⟩ 3) := by decide

theorem test_decode_rsvdType8to15 : decodeTableWord 24 0b1_011_1001_00000001_00000010 =
    some (.rsvdType8to15 0 0b011 9 ⟨1, 2, 0, 0, 0, 0, 0⟩ 3) := by decide

/-- The frame of V1 on the port, all 8 bytes. -/
theorem test_decode_v1_first_frame : decode (wire [0x10, 0x0A, 1, 2, 3, 4, 5, 6] 8) =
    .ok (.ff 0x100 10 ⟨1, 2, 3, 4, 5, 6⟩ 8) := rfl

theorem test_decode_rxOpen :
    decode { blankPacket (.command 0b000) with addr := 0x100, reply := 0x101 } =
      .ok (.rxOpen 0x100 0x101) := rfl

theorem test_decode_rxFrame :
    decode { blankPacket (.command 0b001) with
      addr := 0x100, data := [0x03, 0xAA, 0xBB, 0xCC, 0, 0, 0, 0], len := 4 } =
      .ok (.rxFrame 0x100 (frame [0x03, 0xAA, 0xBB, 0xCC])) := rfl

theorem test_decode_txBegin :
    decode { blankPacket (.command 0b010) with addr := 0x7E0, data := [1, 2, 3], len := 2 } =
      .ok (.txBegin 0x7E0 [1, 2, 3] 2) := rfl

theorem test_decode_txFc :
    decode { blankPacket (.command 0b011) with
      addr := 0x7E8, data := [0x30, 0xFF, 0x7F, 0, 0, 0, 0, 0], len := 3 } =
      .ok (.txFc 0x7E8 (frame [0x30, 0xFF, 0x7F])) := rfl

theorem test_decode_txContinue : decode (blankPacket (.command 0b100)) = .ok .txContinue := rfl

/-- A packet that gives a decode function the frame `[0x30, 8, 20]`. -/
def fcOnCodec (fn : Nibble) : Packet :=
  { blankPacket (.codec fn) with data := [0x30, 8, 20, 0, 0, 0, 0, 0], len := 3 }

theorem test_decode_decode_functions :
    decode (fcOnCodec 0) = .ok (.decType (frame [0x30, 8, 20])) ∧
    decode (fcOnCodec 1) = .ok (.decSfDl (frame [0x30, 8, 20])) ∧
    decode (fcOnCodec 2) = .ok (.decFfDl (frame [0x30, 8, 20])) ∧
    decode (fcOnCodec 3) = .ok (.decCfSn (frame [0x30, 8, 20])) ∧
    decode (fcOnCodec 4) = .ok (.decFcFs (frame [0x30, 8, 20])) ∧
    decode (fcOnCodec 5) = .ok (.decFcBs (frame [0x30, 8, 20])) ∧
    decode (fcOnCodec 6) = .ok (.decFcSt (frame [0x30, 8, 20])) := ⟨rfl, rfl, rfl, rfl, rfl, rfl, rfl⟩

/-- A packet that gives an encode function the arguments 1, 2, 3. -/
def argsOnCodec (fn : Nibble) : Packet := { blankPacket (.codec fn) with arg0 := 1, arg1 := 2, arg2 := 3 }

theorem test_decode_encode_functions :
    decode (argsOnCodec 7) = .ok (.encSf 1) ∧ decode (argsOnCodec 8) = .ok (.encFf 1) ∧
    decode (argsOnCodec 9) = .ok (.encCf 1) ∧ decode (argsOnCodec 10) = .ok (.encFc 1 2 3) :=
  ⟨rfl, rfl, rfl, rfl⟩

/-! ### The Receive Session, one step (95_test_vectors.md 2.3) -/

/-- The 10-byte message of V1, reassembled (RX25, P1). -/
def tenBytes : Message :=
  { address := 0x100
    payload := [(0, 1), (1, 2), (2, 3), (3, 4), (4, 5), (5, 6), (6, 7), (7, 8), (8, 9), (9, 10)]
    length := 10, isMultiFrame := true, isComplete := true }

/-- RX1. -/
theorem test_rxFrame_closed : seen (exec (.rxFrame 0x100 (frame [0x01, 0xAA])) logging) =
    some { outcome := .rxIgnClosed, result := .message (ignoreMsg 0x100), events := [] } := by decide

/-- RX33: a frame from another address, in the middle of a transfer. -/
theorem test_rxFrame_other_address :
    exec (.rxFrame 0x200 (frame [0x21, 7, 8, 9, 10])) (reassembling 6 10) =
      .next { reassembling 6 10 with
        out := { outcome := .rxIgnAddr, result := .message (ignoreMsg 0x200), events := [] } } := rfl

/-- RX7: padding that is not zero is not examined. -/
theorem test_sf_padding_not_examined :
    seen (exec (.sf 0x100 2 ⟨0x11, 0x22, 0xFF, 0xFF, 0, 0, 0⟩ 5) opened) =
      some { outcome := .ok
             result := .message { address := 0x100, payload := [(0, 0x11), (1, 0x22)], length := 2,
                                  isMultiFrame := false, isComplete := true }
             events := [.notifyRxComplete { address := 0x100, payload := [(0, 0x11), (1, 0x22)],
                                            length := 2, isMultiFrame := false,
                                            isComplete := true }] } := by decide

/-- RX9: SF_DL 5 with two payload bytes present. -/
theorem test_sf_declares_too_much : seen (exec (.sf 0x100 5 ⟨1, 2, 0, 0, 0, 0, 0⟩ 3) opened) =
    some { outcome := .rxIgnMalformed, result := .message (ignoreMsg 0x100), events := [] } := by decide

/-- RX12: 65 bytes for a block of 64: no `Alloc`. -/
theorem test_ff_too_long :
    seen (exec (.ff 0x100 65 ⟨1, 2, 3, 4, 5, 6⟩ 8) { opened with par := { opened.par with maxMsg := 64 } })
      = some { outcome := .rxRejTooLong, result := .message (ignoreMsg 0x100)
               events := [.log .rxRejTooLong 0] } := by decide

/-- RX17: more payload in the frame than the declared total; the refused flow-control frame of RX15. -/
theorem test_ff_clipped_by_total :
    let t := exec (.ff 0x100 3 ⟨0xAA, 0xBB, 0xCC, 0xDD, 0xEE, 0xFF⟩ 8) (answering [true, false] opened)
    rxSeen t = some (.reassembling, 3, 3, true) ∧
    seen t = some { outcome := .ok, result := .message (partialMsg 0x100)
                    events := [.alloc 3, .xmit 0x101 [0x30, 0x00, 0x00] 3 0] } := by decide

/-- RX25: the last Consecutive frame, with a sequence number that is not the next one. -/
theorem test_cf_completes :
    let t := exec (.cf 0x100 15 ⟨7, 8, 9, 10, 0, 0, 0⟩ 5) (reassembling 6 10)
    rxSeen t = some (.complete, 10, 10, false) ∧
    seen t = some { outcome := .ok, result := .message tenBytes
                    events := [.free, .notifyRxComplete tenBytes] } := by decide

/-- RX27: the last Consecutive frame falls short. -/
theorem test_cf_falls_short :
    let t := exec (.cf 0x100 1 ⟨7, 8, 0, 0, 0, 0, 0⟩ 3) (reassembling 6 10)
    rxSeen t = some (.failed, 8, 10, false) ∧
    seen t = some { outcome := .rxFailReassembly, result := .message (partialMsg 0x100)
                    events := [.free, .log .rxFailReassembly 0] } := by decide

/-- RX24. -/
theorem test_rsvdType4to7_ignored :
    exec (.rsvdType4to7 0x100 0 0 ⟨1, 0, 0, 0, 0, 0, 0⟩ 2) (reassembling 6 10) =
      .next { reassembling 6 10 with
        out := { outcome := .rxIgnType, result := .message (ignoreMsg 0x100), events := [] } } := rfl

/-- RX24, for a type above 7. -/
theorem test_rsvdType8to15_ignored : seen (exec (.rsvdType8to15 0x100 7 0 ⟨1, 0, 0, 0, 0, 0, 0⟩ 2) opened) =
    some { outcome := .rxIgnType, result := .message (ignoreMsg 0x100), events := [] } := by decide

/-- RX32: a transfer is abandoned. -/
theorem test_rxOpen_frees :
    exec (.rxOpen 0x300 0x301) (reassembling 6 10) =
      .next { opened with
        rx := { opened.rx with srcAddr := 0x300, replyAddr := 0x301 }
        out := { outcome := .ok, result := .none, events := [.free] } } := rfl

/-- The example of R170. -/
theorem test_rxOpen_after_reset : seen (exec (.rxOpen 0x100 0x101) State.reset) =
    some { outcome := .ok, result := .none, events := [] } := by decide

/-! ### The Send Session, one step (95_test_vectors.md 2.4) -/

/-- TX2: an empty message, padded. -/
theorem test_txBegin_empty_padded :
    let s := answering [true] { logging with cfg := { logging.cfg with pad := true } }
    seen (exec (.txBegin 0x7E0 [] 0) s) =
      some { outcome := .ok, result := .flags true true
             events := [.xmit 0x7E0 [0, 0, 0, 0, 0, 0, 0, 0] 8 0, .notifyTxSent 0x7E0 true] } := by decide

/-- TX4: 8 bytes take two frames. -/
theorem test_txBegin_eight_bytes :
    let t := exec (.txBegin 0x7E0 [1, 2, 3, 4, 5, 6, 7, 8] 8) (answering [true] logging)
    txSeen t = some (.active, 6, 1, .count 0) ∧
    seen t = some { outcome := .ok, result := .flags false false
                    events := [.xmit 0x7E0 [0x10, 0x08, 1, 2, 3, 4, 5, 6] 8 0] } := by decide

/-- TX15. -/
theorem test_fcCts_largest_block :
    exec (.fcCts 0x7E8 0xFF 0x7F ⟨0, 0, 0, 0, 0⟩ 3) (sending 10 (.count 0)) =
      .next { sending 10 (.count 255) with
        out := { outcome := .ok, result := .bool true, events := [] } } := rfl

/-- TX21: block size 0 is unlimited, from any address. -/
theorem test_fcCts_unlimited :
    txSeen (exec (.fcCts 0x123 0 0 ⟨0, 0, 0, 0, 0⟩ 3) (sending 10 (.count 3))) =
      some (.active, 6, 1, .unlimited) := by decide

/-- TX18. -/
theorem test_fcWait_pauses :
    exec (.fcWait 0x7E8 5 0 ⟨0, 0, 0, 0, 0⟩ 3) (sending 10 .unlimited) =
      .next { sending 10 (.count 0) with
        out := { outcome := .ok, result := .bool true, events := [] } } := rfl

/-- TX19: the result is true. -/
theorem test_fcOvflw_fails_the_transfer :
    let t := exec (.fcOvflw 0x7E8 0 0 ⟨0, 0, 0, 0, 0⟩ 3) (sending 10 .unlimited)
    txSeen t = some (.failed, 6, 1, .unlimited) ∧
    seen t = some { outcome := .txFcOverflow, result := .bool true
                    events := [.notifyTxSent 0x7E0 false] } := by decide

/-- TX20. -/
theorem test_fcRsvd3_rejected :
    exec (.fcRsvd3 0x7E8 0 0 ⟨0, 0, 0, 0, 0⟩ 3) (sending 10 (.count 2)) =
      .next { sending 10 (.count 2) with
        out := { outcome := .txFcRejStatus, result := .bool false
                 events := [.log .txFcRejStatus 0] } } := rfl

/-- TX20, for the other unrecognized statuses. -/
theorem test_fcRsvd_rejected :
    seen (exec (.fcRsvd4to7 0x7E8 3 0 0 ⟨0, 0, 0, 0, 0⟩ 3) (sending 10 (.count 2))) =
      some { outcome := .txFcRejStatus, result := .bool false, events := [.log .txFcRejStatus 0] } ∧
    seen (exec (.fcRsvd8to15 0x7E8 0 0 0 ⟨0, 0, 0, 0, 0⟩ 3) (sending 10 (.count 2))) =
      some { outcome := .txFcRejStatus, result := .bool false, events := [.log .txFcRejStatus 0] } := by
  decide

/-- TX12: two valid bytes are too few for FC_MIN_LEN 3. -/
theorem test_txFc_too_short :
    seen (exec (.txFc 0x7E8 (frame [0x30, 0x00])) (sending 10 (.count 0))) =
      some { outcome := .txFcRejFormat, result := .bool false, events := [.log .txFcRejFormat 0] } := by
  decide

/-- TX12 with FC_MIN_LEN 2. -/
theorem test_txFc_two_bytes_suffice :
    let s := sending 10 (.count 0)
    txSeen (exec (.txFc 0x7E8 (frame [0x30, 0x00])) { s with par := { s.par with fcMinLen := 2 } }) =
      some (.active, 6, 1, .unlimited) := by decide

/-- TX23: the last frame with the last permit. -/
theorem test_txContinue_last_frame :
    let t := exec .txContinue (answering [true] (sending 13 (.count 1)))
    txSeen t = some (.complete, 13, 2, .count 0) ∧
    seen t = some { outcome := .ok, result := .bool true
                    events := [.xmit 0x7E0 [0x21, 7, 8, 9, 10, 11, 12, 13] 8 0,
                               .notifyTxSent 0x7E0 true] } := by decide

/-- TX22: the transport refuses. -/
theorem test_txContinue_refused :
    let t := exec .txContinue (answering [false] (sending 20 .unlimited))
    txSeen t = some (.failed, 6, 1, .unlimited) ∧
    seen t = some { outcome := .txErrXmit, result := .bool false
                    events := [.xmit 0x7E0 [0x21, 7, 8, 9, 10, 11, 12, 13] 8 0,
                               .notifyTxSent 0x7E0 false] } := by decide

/-! ### The codec (95_test_vectors.md 2.1, 2.2) -/

/-- What a codec function answers. -/
def answered (r : Result) : Option Output := some { outcome := .ok, result := r, events := [] }

theorem test_decType :
    seen (exec (.decType (frame [0xF7])) logging) = answered (.field (some 15)) ∧
    seen (exec (.decType (frame [])) logging) = answered (.field none) := by decide

theorem test_decSfDl_checks_no_type :
    seen (exec (.decSfDl (frame [0x35])) logging) = answered (.field (some 5)) := by decide

theorem test_decFfDl :
    seen (exec (.decFfDl (frame [0x1A, 0xBC])) logging) = answered (.field (some 2748)) ∧
    seen (exec (.decFfDl (frame [0x10])) logging) = answered (.field none) := by decide

theorem test_decCfSn :
    seen (exec (.decCfSn (frame [0x2F, 0xAA])) logging) = answered (.field (some 15)) := by decide

theorem test_decFcFs :
    seen (exec (.decFcFs (frame [0x31, 0, 0])) logging) = answered (.field (some 1)) := by decide

theorem test_decFcBs :
    seen (exec (.decFcBs (frame [0x30, 0xFF])) logging) = answered (.field (some 255)) ∧
    seen (exec (.decFcBs (frame [0x30])) logging) = answered (.field none) := by decide

theorem test_decFcSt :
    seen (exec (.decFcSt (frame [0x30, 0, 0x7F])) logging) = answered (.field (some 127)) ∧
    seen (exec (.decFcSt (frame [0x30, 0])) logging) = answered (.field none) := by decide

theorem test_encSf :
    seen (exec (.encSf 15) logging) = answered (.encoded (.ok ⟨0x0F, 0, 0, 0, 0, 0, 0, 0⟩)) ∧
    seen (exec (.encSf 16) logging) = answered (.encoded .encodeRange) := by decide

theorem test_encFf :
    seen (exec (.encFf 256) logging) = answered (.encoded (.ok ⟨0x11, 0, 0, 0, 0, 0, 0, 0⟩)) ∧
    seen (exec (.encFf 4096) logging) = answered (.encoded .encodeRange) := by decide

theorem test_encCf :
    seen (exec (.encCf 15) logging) = answered (.encoded (.ok ⟨0x2F, 0, 0, 0, 0, 0, 0, 0⟩)) ∧
    seen (exec (.encCf 16) logging) = answered (.encoded .encodeRange) := by decide

theorem test_encFc :
    seen (exec (.encFc 0 8 20) logging) = answered (.encoded (.ok ⟨0x30, 8, 0x14, 0, 0, 0, 0, 0⟩)) ∧
    seen (exec (.encFc 0 256 0) logging) = answered (.encoded .encodeRange) := by decide

/-! ### The step -/

/-- The first step after reset with RX_OPEN on the port (R170). -/
theorem test_step_runs_a_table_word :
    step (State.reset.withFetchWord 8 0b000) = exec (.rxOpen 0 0) State.reset := rfl

/-- A context that is no value of `CTX` cannot be written (R8, R21). -/
theorem test_step_context_out_of_range :
    step { asked (.writeContext 8) opened with par := { opened.par with ctxSize := some 8 } } =
      .refused .operandOutOfRange := rfl

/-- With no request the block is idle. -/
theorem test_step_idle : step State.reset = .next State.reset := rfl

/-! ### Witnesses: a state and operands that meet each statement's hypotheses, clause by clause -/

/-- A packet for `.rxOpen 0x100 0x101`. -/
def openPacket : Packet := { blankPacket (.command 0) with addr := 0x100, reply := 0x101 }

theorem witness_StepRuns_executed :
    (asked (.packet openPacket) State.reset).inbox = [.packet openPacket] ∧
    decode openPacket = .ok (.rxOpen 0x100 0x101) ∧
    Instr.wf State.reset.par (.rxOpen 0x100 0x101) = true := ⟨rfl, rfl, by decide⟩

theorem witness_StepRuns_out_of_range :
    decode { openPacket with addr := 2 ^ 32 } = .ok (.rxOpen (2 ^ 32) 0x101) ∧
    Instr.wf State.reset.par (.rxOpen (2 ^ 32) 0x101) = false := ⟨rfl, by decide⟩

theorem witness_StepRuns_undecodable :
    decode (blankPacket (.command 5)) = .error .noSuchCommand := rfl

theorem witness_HardwareReset :
    (asked .reset (reassembling 6 10)).inbox = [.reset] ∧
    rxBufLive (asked .reset (reassembling 6 10)) = true := by decide

/-- A block whose type of contexts has 8 values. -/
def eightContexts (s : State) : State := { s with par := { s.par with ctxSize := some 8 } }

/-- Contexts at and beyond the end of an 8-value type. -/
theorem witness_ConfigurationWrite :
    (asked (.writePad true) opened).inbox = [.writePad true] ∧
    (asked (.writeLogEn false) opened).inbox = [.writeLogEn false] ∧
    (asked (.writeContext 7) opened).inbox = [.writeContext 7] ∧ opened.par.ctxOk 7 = true ∧
    (eightContexts opened).par.ctxOk 7 = true ∧ (eightContexts opened).par.ctxOk 8 = false := by decide

theorem witness_UnissuedSelectCodes :
    (asked (.packet (blankPacket (.command 5))) opened).inbox = [.packet (blankPacket (.command 5))] ∧
    5 ≤ (5 : BitVec 3).toNat ∧ 5 ≤ (7 : BitVec 3).toNat := by decide

theorem witness_DecodeOfEncode :
    Instr.wf Params.recommended (.sf (2 ^ 32 - 1) 0 ⟨0, 0, 0, 0, 0, 0, 0⟩ 1) = true ∧
    Instr.wf Params.recommended (.txBegin 0 [] 0) = true := by decide

theorem witness_DeliveredFrames :
    1 ≤ (frame [0x40]).dlen.val ∧ decType (frame [0x40]) ≠ some 3 ∧
    1 ≤ (frame [0x30]).dlen.val ∧ decType (frame [0x30]) = some 3 := by decide

theorem witness_RxFrameEntryChecks :
    (ignoreMsg 0x100).address = 0x100 ∧ (ignoreMsg 0x100).payload = [] ∧ (ignoreMsg 0x100).length = 0 ∧
    (ignoreMsg 0x100).isMultiFrame = false ∧ (ignoreMsg 0x100).isComplete = false ∧
    State.reset.rx.state = .closed ∧ opened.rx.state ≠ .closed ∧ (frame []).dlen = 0 ∧
    (frame [0]).dlen ≠ 0 ∧ 0x101 ≠ opened.rx.srcAddr := by decide

/-- Malformed by SF_DL (8), malformed by `dlen` (1 byte declared, none present). -/
theorem witness_SingleFrame_malformed :
    opened.rx.state = .awaitFf ∧ 1 ≤ (8 : Fin 9).val ∧ 7 < (8 : Nibble).toNat ∧
    1 ≤ (1 : Fin 9).val ∧ (1 : Fin 9).val - 1 < (1 : Nibble).toNat := by decide

/-- The largest and the empty message. -/
theorem witness_SingleFrame_complete :
    opened.rx.state = .awaitFf ∧ (7 : Nibble).toNat ≤ 7 ∧ (7 : Nibble).toNat ≤ (8 : Fin 9).val - 1 ∧
    1 ≤ (1 : Fin 9).val ∧ (0 : Nibble).toNat ≤ (1 : Fin 9).val - 1 := by decide

/-- A block whose `MAX_MSG` is 64. -/
def small (s : State) : State := { s with par := { s.par with maxMsg := 64 } }

/-- One valid byte; a total of `MAX_MSG + 1`; a total of `MAX_MSG`, refused and granted; the total 0. -/
theorem witness_FirstFrame :
    opened.rx.state = .awaitFf ∧ 1 ≤ (1 : Fin 9).val ∧ 2 ≤ (2 : Fin 9).val ∧
    (small opened).par.maxMsg < (65 : BitVec 12).toNat ∧
    (64 : BitVec 12).toNat ≤ (small opened).par.maxMsg ∧
    nextAnswer (answering [false] (small opened)) = false ∧
    nextAnswer (answering [true] (small opened)) = true ∧
    (0 : BitVec 12).toNat ≤ (small opened).par.maxMsg := by decide

/-- A live buffer of the expected length, from which exactly 4, 8 and 7 bytes are missing. -/
theorem witness_ConsecutiveFrame :
    (reassembling 6 10).rx.state = .reassembling ∧
    ((reassembling 6 10).rx.buf.map List.length) = some (reassembling 6 10).rx.expected.toNat ∧
    (reassembling 6 10).rx.received.toNat ≤ (reassembling 6 10).rx.expected.toNat ∧
    ((reassembling 6 14).rx.buf.map List.length) = some (reassembling 6 14).rx.expected.toNat ∧
    ((reassembling 6 13).rx.buf.map List.length) = some (reassembling 6 13).rx.expected.toNat := by decide

/-- Full with 4 of 7 bytes taken; short by one at the last frame; one byte more than a frame missing. -/
theorem witness_ConsecutiveFrame_clauses :
    min ((8 : Fin 9).val - 1) (10 - 6) = 10 - 6 ∧
    (min ((7 : Fin 9).val - 1) (13 - 6) ≠ 13 - 6 ∧ 13 - 6 ≤ 7) ∧
    (min ((8 : Fin 9).val - 1) (14 - 6) ≠ 14 - 6 ∧ 7 < 14 - 6) := by decide

/-- For OtherTypesAreIgnoredByReceive (open and closed) and UnrecognizedTypesChangeNothing. -/
theorem witness_OtherTypes :
    State.reset.rx.state = .closed ∧ opened.rx.state ≠ .closed ∧ 1 ≤ (frame [0x30]).dlen.val ∧
    3 ≤ (hiNibble (frame [0x30]).bytes.b0).toNat ∧ 3 ≤ (hiNibble (frame [0xF0]).bytes.b0).toNat := by
  decide

theorem witness_FramesWithoutTransition :
    (reassembling 6 10).rx.state ≠ .closed ∧ (reassembling 6 10).rx.state ≠ .awaitFf ∧
    opened.rx.state ≠ .closed ∧ opened.rx.state ≠ .reassembling := by decide

/-- Messages of 0 and of 7 bytes, with either answer of the transport. -/
theorem witness_ShortMessage :
    (7 ≤ [1, 2, 3, 4, 5, 6, (7 : Byte)].length) ∧ 7 ≤ logging.par.maxMsg ∧ logging.tx.msg.wf = true ∧
    nextAnswer (answering [true] logging) = true ∧ nextAnswer (answering [false] logging) = false := by
  decide

/-- A block whose `MAX_MSG` is 8192 (TX8). -/
def large (s : State) : State := { s with par := { s.par with maxMsg := 8192 } }

/-- Lengths 8, 4095 and 4096. -/
theorem witness_LongMessage :
    8 ≤ (List.replicate 8 (0 : Byte)).length ∧ 4095 ≤ (List.replicate 4095 (0 : Byte)).length ∧
    4096 ≤ (List.replicate 4096 (0 : Byte)).length ∧ 4096 ≤ (large logging).par.maxMsg ∧
    (large logging).par.maxMsg ≤ 65535 ∧ (large logging).tx.msg.wf = true ∧
    nextAnswer (answering [true] (large logging)) = true ∧
    nextAnswer (answering [false] (large logging)) = false := by
  simp only [List.length_replicate]
  decide

theorem witness_FlowControlWithoutATransfer :
    State.reset.tx.state ≠ .active ∧
    ({ sending 10 .unlimited with tx := { (sending 10 .unlimited).tx with state := .failed } }).tx.state
      ≠ .active := by decide

/-- Too short by one byte, empty, and of another type. -/
theorem witness_MalformedFlowControl :
    (sending 10 .unlimited).tx.state = .active ∧
    (frame [0x30, 0]).dlen.val < (sending 10 .unlimited).par.fcMinLen ∧ (frame []).dlen = 0 ∧
    (hiNibble (frame [0x21, 7, 8]).bytes.b0).toNat ≠ 3 ∧
    (2 : Fin 9).val < (sending 10 .unlimited).par.fcMinLen := by decide

/-- For ContinueSetsThePermittedCount, WaitPausesTheTransfer, OverflowFailsTheTransfer,
UnknownStatusIsRejected and DeliveredFlowControlDrivesTheTransfer: an active transfer and the shortest frame accepted. -/
theorem witness_FlowControl :
    (sending 10 (.count 0)).tx.state = .active ∧
    (sending 10 (.count 0)).par.fcMinLen ≤ (3 : Fin 9).val ∧ 2 ≤ (sending 10 (.count 0)).par.fcMinLen ∧
    3 ≤ (3 : Nibble).toNat ∧ 3 ≤ (15 : Nibble).toNat := by decide

theorem witness_NothingToSend :
    logging.tx.state ≠ .active ∧ (sending 10 (.count 0)).tx.state = .active ∧
    (sending 10 (.count 0)).tx.toSend = .count 0 := by decide

/-- The last frame (4 bytes left, one permit) and one before the last (14 left, unlimited). -/
theorem witness_ContinueSends :
    (sending 10 (.count 1)).tx.state = .active ∧ (sending 10 (.count 1)).tx.toSend ≠ .count 0 ∧
    (sending 10 (.count 1)).tx.offset.toNat < (sending 10 (.count 1)).tx.len.toNat ∧
    (sending 10 (.count 1)).tx.len.toNat ≤ (sending 10 (.count 1)).par.maxMsg ∧
    (sending 20 .unlimited).tx.toSend ≠ .count 0 ∧
    (sending 20 .unlimited).tx.offset.toNat < (sending 20 .unlimited).tx.len.toNat ∧
    nextAnswer (answering [true] (sending 10 (.count 1))) = true ∧
    nextAnswer (answering [false] (sending 20 .unlimited)) = false := by decide

theorem witness_CodecRoundTrips :
    (15 : Half).toNat ≤ 15 ∧ (4095 : Half).toNat ≤ 4095 ∧ (255 : Half).toNat ≤ 255 ∧
    3 ≤ (frame [0x00, 1, 2]).dlen.val ∧ decType (frame [0x00, 1, 2]) = some 0 ∧
    decType (frame [0x1F, 0xFF, 2]) = some 1 ∧ decType (frame [0x2F, 1, 2]) = some 2 ∧
    decType (frame [0x3F, 0xFF, 0xFF]) = some 3 := by decide

theorem witness_ResetStateIsLegal : Params.recommended.wf = true ∧
    Params.wf { maxMsg := 8, addrW := 1, fcMinLen := 2, ctxSize := some 1 } = true ∧
    Params.wf { maxMsg := 65535, addrW := 1, fcMinLen := 8, ctxSize := none } = true := by decide

/-- Legal states of every kind: after reset, open, reassembling, sending. -/
theorem witness_legal_states :
    Inv State.reset ∧ Inv opened ∧ Inv (reassembling 6 10) ∧ Inv (sending 10 .unlimited) :=
  ⟨by decide, by decide, by decide, by decide⟩

theorem witness_StepKeepsTheInvariants : Inv (asked (.packet openPacket) State.reset) ∧
    ∃ t, step (asked (.packet openPacket) State.reset) = .next t := ⟨by decide, _, rfl⟩

/-- A command that leaves a buffer live, and one that meets a finished session. -/
theorem witness_ReceiveInvariants : Inv (reassembling 6 20) ∧
    Instr.wf (reassembling 6 20).par (.cf 0x100 1 ⟨7, 8, 9, 10, 0, 0, 0⟩ 5) = true ∧
    (∃ t, exec (.cf 0x100 1 ⟨7, 8, 9, 10, 0, 0, 0⟩ 5) (reassembling 6 20) = .next t ∧
      rxBufLive t = true) := ⟨by decide, by decide, _, rfl, by decide⟩

theorem witness_NoCommandFaults : Inv (reassembling 6 10) ∧
    Instr.wf (reassembling 6 10).par (.cf 0x100 1 ⟨7, 8, 9, 10, 0, 0, 0⟩ 5) = true := by decide

/-- For the statements about every next state: an instruction of the Receive Session that changes its
state and one of the Send Session. -/
theorem witness_next_states :
    (∃ t, exec (.rxOpen 0x100 0x101) State.reset = .next t ∧ t.rx.state ≠ State.reset.rx.state) ∧
    (∃ t, exec (.fcOvflw 0 0 0 ⟨0, 0, 0, 0, 0⟩ 3) (sending 10 .unlimited) = .next t ∧
      t.tx.state ≠ (sending 10 .unlimited).tx.state) := ⟨⟨_, rfl, by decide⟩, ⟨_, rfl, by decide⟩⟩

theorem witness_Sessions :
    receives (.fcOvflw 0 0 0 ⟨0, 0, 0, 0, 0⟩ 3) = false ∧ sends (.rxOpen 0 0) = false ∧
    receives (.encSf 1) = false ∧ sends (.encSf 1) = false := by decide

/-- TX_CONTINUE in a state whose message store is not empty; RX_FRAME on a session neither waiting nor
reassembling; a Single frame in AWAIT_FF and a First frame in REASSEMBLING, which write no `RXBUF`. -/
theorem witness_Stores : (∃ t, exec .txContinue (sending 10 (.count 0)) = .next t) ∧
    (∃ t, exec (.rxFrame 0x100 (frame [0x21])) logging = .next t) ∧
    logging.rx.state ≠ .awaitFf ∧ logging.rx.state ≠ .reassembling ∧ logging.rx.state ≠ .complete ∧
    (∃ t, exec (.rxFrame 0x100 (frame [0x01, 0xAA])) opened = .next t) ∧
    ¬ PresentsFirst (.rxFrame 0x100 (frame [0x01, 0xAA])) ∧
    (∃ t, exec (.ff 0x100 10 ⟨1, 2, 3, 4, 5, 6⟩ 8) (reassembling 6 10) = .next t) ∧
    ¬ PresentsConsecutive (.ff 0x100 10 ⟨1, 2, 3, 4, 5, 6⟩ 8) := by
  refine ⟨⟨_, rfl⟩, ⟨_, rfl⟩, by decide, by decide, by decide, ⟨_, rfl⟩, ?_, ⟨_, rfl⟩, ?_⟩
  · rintro (⟨a, x, tl, n, h⟩ | ⟨a, f, h, ht⟩)
    · cases h
    · cases h
      revert ht
      decide
  · rintro (⟨a, x, tl, n, h⟩ | ⟨a, f, h, ht⟩) <;> cases h

/-- Each row of the table that changes `rx.state`: RX_OPEN, SF, FF, and CF with either end. -/
theorem witness_ReceiveTransitions :
    rxSeen (exec (.rxOpen 0x100 0x101) State.reset) = some (.awaitFf, 0, 0, false) ∧
    rxSeen (exec (.rxFrame 0x100 (frame [0x01, 0xAA])) opened) = some (.complete, 0, 0, false) ∧
    rxSeen (exec (.ff 0x100 10 ⟨1, 2, 3, 4, 5, 6⟩ 8) (answering [true, true] opened)) =
      some (.reassembling, 6, 10, true) ∧
    rxSeen (exec (.cf 0x100 1 ⟨7, 8, 9, 10, 0, 0, 0⟩ 5) (reassembling 6 10)) =
      some (.complete, 10, 10, false) ∧
    rxSeen (exec (.rxFrame 0x100 (frame [0x21, 7, 8])) (reassembling 6 10)) =
      some (.failed, 8, 10, false) :=
  ⟨by decide, by decide, by decide, by decide, by decide⟩

/-- A finished Receive and a failed Send Session. -/
def finished : State :=
  { opened with
    rx := { opened.rx with state := .complete, msg := tenBytes }
    tx := { opened.tx with state := .failed } }

theorem witness_Completion : rxIsComplete finished = true ∧ txIsComplete finished = true ∧
    ∃ t, exec (.rxFrame 0x100 (frame [0x01, 0xAA])) finished = .next t := ⟨by decide, by decide, _, rfl⟩

theorem witness_TransmittedFrames :
    ∃ t, exec .txContinue (answering [true] (sending 10 (.count 1))) = .next t ∧
      .xmit 0x7E0 [0x21, 7, 8, 9, 10] 5 0 ∈ t.out.events := ⟨_, rfl, by decide⟩

/-- A step that both transmits and logs nothing else, and one that logs, with another context. -/
theorem witness_Context :
    (∃ t, exec .txContinue (answering [true] (sending 10 (.count 1))) = .next t ∧
      .xmit 0x7E0 [0x21, 7, 8, 9, 10] 5 0 ∈ t.out.events) ∧
    (∃ t, exec (.cf 0x100 1 ⟨7, 8, 0, 0, 0, 0, 0⟩ 3) ((reassembling 6 10).withContext 9) = .next t ∧
      .log .rxFailReassembly 9 ∈ t.out.events) := ⟨⟨_, rfl, by decide⟩, ⟨_, rfl, by decide⟩⟩

/-- Two frames that agree on their three valid bytes and differ beyond. -/
theorem witness_InvalidBytes :
    (frame [0x30, 8, 20]).dlen = (⟨⟨0x30, 8, 20, 1, 2, 3, 4, 5⟩, 3⟩ : Frame).dlen ∧
    (∀ k < 3, frameByte (frame [0x30, 8, 20]) k = frameByte ⟨⟨0x30, 8, 20, 1, 2, 3, 4, 5⟩, 3⟩ k) ∧
    frame [0x30, 8, 20] ≠ ⟨⟨0x30, 8, 20, 1, 2, 3, 4, 5⟩, 3⟩ := by decide

theorem witness_FirstFramePuts :
    logging.tx.msg.wf = true ∧ logging.par.wf = true ∧ 8 ≤ (List.replicate 8 (0 : Byte)).length ∧
    8 ≤ logging.par.maxMsg ∧ 8 ≤ opened.par.maxMsg ∧ opened.rx.state = .awaitFf ∧
    opened.rx.srcAddr = 0x100 ∧ nextAnswer (answering [true] logging) = true ∧
    nextAnswer (answering [true] opened) = true := by decide

/-- A sender of 10 bytes and a receiver that reassembles them from 0x7E0. -/
theorem witness_ConsecutiveFrameKeeps :
    let S := answering [true] (sending 10 .unlimited)
    let R := { reassembling 6 10 with rx := { (reassembling 6 10).rx with srcAddr := 0x7E0 } }
    Inv S ∧ Inv R ∧ InStep S R ∧ S.tx.toSend ≠ .count 0 ∧ nextAnswer S = true := by
  refine ⟨by decide, by decide, ⟨rfl, rfl, rfl, rfl, rfl, _, rfl, ?_⟩, by decide, rfl⟩
  decide

/-- 15 bytes left: three more frames. -/
theorem witness_TransferTakes :
    let S := answering (List.replicate 3 true) (sending 21 .unlimited)
    Inv S ∧ S.tx.state = .active ∧ S.tx.toSend = .unlimited ∧
    S.answers = List.replicate ((S.tx.len.toNat - S.tx.offset.toNat + 6) / 7) true := by decide

/-- The empty message and one of 7 bytes. -/
theorem witness_SingleFrameTransfer :
    logging.tx.msg.wf = true ∧ 0 ≤ ([] : List Byte).length ∧ 7 ≤ (List.replicate 7 (0 : Byte)).length ∧
    7 ≤ logging.par.maxMsg ∧ opened.rx.state = .awaitFf ∧ opened.rx.srcAddr = 0x100 ∧
    nextAnswer (answering [true] logging) = true := by decide

/-- A message of 8 bytes: one First and one Consecutive frame. -/
theorem witness_WholeMessage :
    let S := answering [true, true] logging
    let R := answering [true] opened
    Inv S ∧ Inv R ∧ Instr.wf S.par (.txBegin 0x100 (List.replicate 8 0) 8) = true ∧
    8 ≤ R.par.maxMsg ∧ S.par.fcMinLen ≤ 3 ∧ R.rx.state = .awaitFf ∧ R.rx.srcAddr = 0x100 ∧
    S.answers = List.replicate (1 + 8 / 7) true ∧ nextAnswer R = true :=
  ⟨by decide, by decide, by decide, by decide, by decide, rfl, rfl, rfl, rfl⟩

end Sys2Proof.Tests
end

/-! ## Scope (00_scope.md): the step, and what a legal state keeps -/

namespace Sys2Proof.Machine

/-! ### A legal state, session by session -/

/-- A Message that `RXMSG` may hold: nothing listed at or beyond its length, which is at most `MAX_MSG`, and
an address in range (R22, R40). -/
structure MsgLegal (p : Params) (m : Message) : Prop where
  payload : MemoryIn m.length.toNat m.payload
  length : m.length.toNat ≤ p.maxMsg
  address : m.address < 2 ^ p.addrW

/-- What `Inv` says of the Receive Session. -/
structure RxLegal (s : State) : Prop where
  counters : RxInv s
  msg : MsgLegal s.par s.rx.msg
  src : s.rx.srcAddr < 2 ^ s.par.addrW
  reply : s.rx.replyAddr < 2 ^ s.par.addrW

/-- What `Inv` says of the Send Session. -/
structure TxLegal (s : State) : Prop where
  counters : TxInv s
  store : MemoryIn s.par.maxMsg s.tx.msg
  addr : s.tx.addr < 2 ^ s.par.addrW

/-- A legal state is one whose parameters, sessions and context are legal. -/
theorem inv_iff {s : State} :
    Inv s ↔ s.par.wf = true ∧ RxLegal s ∧ TxLegal s ∧ s.par.ctxOk s.cfg.context = true := by
  constructor
  · rintro ⟨hp, hrx, htx, ⟨hst, hm, hl⟩, ⟨hsrc, hrep, ha, hma⟩, hc⟩
    exact ⟨hp, ⟨hrx, ⟨hm, hl, hma⟩, hsrc, hrep⟩, ⟨htx, hst, ha⟩, hc⟩
  · rintro ⟨hp, ⟨hrx, ⟨hm, hl, hma⟩, hsrc, hrep⟩, ⟨htx, hst, ha⟩, hc⟩
    exact ⟨hp, hrx, htx, ⟨hst, hm, hl⟩, ⟨hsrc, hrep, ha, hma⟩, hc⟩

/-- The ranges of `MAX_MSG` (R8). -/
theorem maxMsg_range {p : Params} (h : p.wf = true) : 8 ≤ p.maxMsg ∧ p.maxMsg ≤ 65535 := by
  simp only [Params.wf, Bool.and_eq_true, decide_eq_true_eq] at h
  obtain ⟨⟨⟨⟨⟨h8, hmax⟩, -⟩, -⟩, -⟩, -⟩ := h
  exact ⟨h8, hmax⟩

/-- In REASSEMBLING a buffer of `rx.expected` bytes is live (R25). -/
theorem RxInv.buf_eq {s : State} (h : RxInv s) (hs : s.rx.state = .reassembling) :
    ∃ b, s.rx.buf = some b ∧ b.length = s.rx.expected.toNat := by
  obtain ⟨hb, -⟩ := h
  rw [if_pos hs] at hb
  exact Option.map_eq_some_iff.mp hb

/-- The next Consecutive frame is taken from bytes of the message (R33, R219). -/
theorem TxInv.next_le_len {s : State} (h : TxInv s) :
    s.tx.offset.toNat + cfPayloadCount s ≤ s.tx.len.toNat := by
  obtain ⟨hle, -⟩ := h
  have : cfPayloadCount s ≤ s.tx.len.toNat - s.tx.offset.toNat := Nat.min_le_right _ _
  omega

/-! ### Progress: what can be presented is answered -/

/-- The operation answers a next state. -/
def AnswersNext (x : Answer) : Prop := ∃ t, x = .next t

theorem answersNext_next (t : State) : AnswersNext (.next t) := ⟨t, rfl⟩

section Progress

variable {a : Addr} {f : Frame} {s : State} {k : State → Answer}

theorem rxEnter_next (h : AnswersNext (k s)) : AnswersNext (rxEnter a f s k) := by
  rcases rxEnter_cases (a := a) (f := f) (s := s) k with ⟨o, -, he⟩ | ⟨-, -, -, he⟩
  · exact he ▸ answersNext_next _
  · exact he ▸ h

theorem rxSingle_next : AnswersNext (rxSingle a f s) := by
  rcases rxSingle_cases (a := a) (f := f) (s := s) with ⟨o, -, he⟩ | ⟨-, bytes, -, he⟩
  · exact he ▸ answersNext_next _
  · exact he ▸ answersNext_next _

theorem rxFirst_next : AnswersNext (rxFirst a f s) := by
  rcases rxFirst_cases (a := a) (f := f) (s := s) with
    ⟨o, -, he⟩ | ⟨-, total, -, ⟨-, he⟩ | ⟨-, -, he⟩ | ⟨-, -, he⟩⟩
  all_goals exact he ▸ answersNext_next _

/-- A Consecutive frame finds every byte it needs: the invariant keeps a buffer of `rx.expected` bytes. -/
theorem rxConsecutive_next (h : RxInv s) : AnswersNext (rxConsecutive a f s) := by
  by_cases hs : s.rx.state = .reassembling
  · obtain ⟨b, hb, hlen⟩ := h.buf_eq hs
    exact rxConsecutive_eq (a := a) (f := f) hs hb hlen.ge ▸ answersNext_next _
  · have : rxConsecutive a f s = rxIgnore .rxIgnState a s := by simp [rxConsecutive, hs]
    exact this ▸ answersNext_next _

theorem rxDispatch_next (h : RxInv s) : AnswersNext (rxDispatch a f s) := by
  unfold rxDispatch
  split
  · exact rxSingle_next
  · exact rxFirst_next
  · exact rxConsecutive_next h
  · exact answersNext_next _

theorem txFcEnter_next (h : AnswersNext (k s)) : AnswersNext (txFcEnter f s k) := by
  rcases txFcEnter_cases (f := f) (s := s) k with ⟨-, he⟩ | ⟨-, he⟩ | ⟨-, -, -, he⟩
  · exact he ▸ answersNext_next _
  · exact he ▸ answersNext_next _
  · exact he ▸ h

theorem txFcContinue_next : AnswersNext (txFcContinue f s) := by
  rcases txFcContinue_cases (f := f) (s := s) with he | ⟨ts, he⟩
  · exact he ▸ answersNext_next _
  · exact he ▸ answersNext_next _

theorem txFcDispatch_next : AnswersNext (txFcDispatch f s) := by
  unfold txFcDispatch
  split
  · exact txFcContinue_next
  all_goals exact answersNext_next _

theorem execTxBegin_next {d : List Byte} {len : Nat} (h : len ≤ s.par.maxMsg) :
    AnswersNext (execTxBegin a d len s) := by
  rcases Nat.lt_or_ge 7 len with h8 | h7
  · exact execTxBegin_long h h8 ▸ answersNext_next _
  · exact execTxBegin_short h h7 ▸ answersNext_next _

/-- TX_CONTINUE reads no byte beyond `TXMSG`: what it sends ends at most at `tx.len`. -/
theorem execTxContinue_next (h : TxInv s) : AnswersNext (execTxContinue s) := by
  have ⟨_, hmax, _⟩ := h
  have hle : (start s).tx.offset.toNat + cfPayloadCount (start s) ≤ (start s).par.maxMsg :=
    h.next_le_len.trans hmax
  unfold execTxContinue
  dsimp only
  rw [if_neg (Nat.not_lt.mpr hle)]
  split_ifs
  all_goals exact answersNext_next _

/-- `TX_BEGIN`'s length is at most `MAX_MSG` when the command can be presented (R212). -/
theorem length_le_of_payloadOk {p : Params} {d : List Byte} {len : Nat} (h : p.payloadOk d len = true) :
    len ≤ p.maxMsg := by
  simp only [Params.payloadOk, Bool.and_eq_true, decide_eq_true_eq] at h
  exact h.1.trans h.2

/-- Progress (R14): the only faults are accesses to bytes that the invariant says exist. -/
theorem exec_next {i : Instr} (h : Inv s) (hi : i.wf s.par = true) : AnswersNext (exec i s) := by
  obtain ⟨-, hrx, htx, -⟩ := h
  cases i with
  | sf => exact rxEnter_next rxSingle_next
  | ff => exact rxEnter_next rxFirst_next
  | cf => exact rxEnter_next (rxConsecutive_next hrx)
  | rsvdType4to7 => exact rxEnter_next (answersNext_next _)
  | rsvdType8to15 => exact rxEnter_next (answersNext_next _)
  | rxFrame => exact rxEnter_next (rxDispatch_next hrx)
  | fcCts => exact txFcEnter_next txFcContinue_next
  | fcWait => exact txFcEnter_next (answersNext_next _)
  | fcOvflw => exact txFcEnter_next (answersNext_next _)
  | fcRsvd3 => exact txFcEnter_next (answersNext_next _)
  | fcRsvd4to7 => exact txFcEnter_next (answersNext_next _)
  | fcRsvd8to15 => exact txFcEnter_next (answersNext_next _)
  | txFc => exact txFcEnter_next txFcDispatch_next
  | txBegin a d len =>
    simp only [Instr.wf, Bool.and_eq_true] at hi
    exact execTxBegin_next (length_le_of_payloadOk hi.2)
  | txContinue => exact execTxContinue_next htx
  | rxOpen | decType | decSfDl | decFfDl | decCfSn | decFcFs | decFcBs | decFcSt
  | encSf | encFf | encCf | encFc => exact answersNext_next _

end Progress

/-! ### Preservation: what an instruction does leaves a legal state -/

section Preservation

variable {i : Instr} {s t : State}

/-- The Message a completed transfer leaves in `RXMSG` (R174, R176). -/
theorem completeMsg_legal {p : Params} (hp : p.wf = true) {a : Addr} (ha : a < 2 ^ p.addrW)
    {v : List Byte} (hv : v.length ≤ p.maxMsg) (multi : Bool) : MsgLegal p (completeMsg a v multi) := by
  have hlen : (completeMsg a v multi).length.toNat = v.length :=
    toNat_toLen (hv.trans (maxMsg_range hp).2)
  refine ⟨⟨Memory.wf_write Memory.wf_empty 0 v, ?_⟩, hlen.trans_le hv, ha⟩
  rw [hlen]
  exact Memory.lt_of_mem_write (by simp [Memory.empty]) (Nat.zero_add _).le

/-- Taking no more than is missing keeps `rx.received` within `rx.expected` (R25). -/
theorem received_add_le {got : Nat} (h : s.rx.received.toNat ≤ s.rx.expected.toNat)
    (hgot : got ≤ rxMissing s) :
    (toLen (s.rx.received.toNat + got)).toNat ≤ s.rx.expected.toNat := by
  have hle : s.rx.received.toNat + got ≤ s.rx.expected.toNat := by
    unfold rxMissing at hgot
    omega
  rwa [toNat_toLen (hle.trans (len_le _))]

/-- A frame presented to the Receive Session keeps its part of the invariant (R25). -/
theorem RxEffect.rxLegal (h : RxEffect i s t) (hp : s.par.wf = true) (hs : RxLegal s) : RxLegal t := by
  obtain ⟨hc, hmsg, hsrc, hrep⟩ := hs
  obtain ⟨hbuf, hrcv, hmax, hff⟩ := hc
  have ⟨h8, h16⟩ := maxMsg_range hp
  cases h with
  | refused n r _ => exact ⟨⟨hbuf, hrcv, hmax, hff⟩, hmsg, hsrc, hrep⟩
  | single bytes _ hst h7 =>
    refine ⟨⟨?_, hrcv, hmax, hff⟩, completeMsg_legal hp hsrc (by omega) _, hsrc, hrep⟩
    simpa [hst] using hbuf
  | accepted b got _ _ hb hb4095 hgot _ =>
    have he : (toLen b.length).toNat = b.length := toNat_toLen (by omega)
    have hr : (toLen got).toNat = got := toNat_toLen (by omega)
    refine ⟨⟨by simp [he], ?_, ?_, ?_⟩, hmsg, hsrc, hrep⟩
    · simpa only [he, hr] using hgot
    · simpa only [he] using hb
    · simpa only [he, Config.ffDlMax] using hb4095
  | full b _ _ hb =>
    exact ⟨⟨rfl, le_rfl, hmax, hff⟩, completeMsg_legal hp hsrc (hb.trans_le hmax) _, hsrc, hrep⟩
  | short got _ _ hgot _ =>
    exact ⟨⟨rfl, received_add_le hrcv hgot, hmax, hff⟩, hmsg, hsrc, hrep⟩
  | more b b' got _ hst hb hlen hgot =>
    refine ⟨⟨?_, received_add_le hrcv hgot, hmax, hff⟩, hmsg, hsrc, hrep⟩
    simpa [hst, hb, hlen] using hbuf

/-- RX_OPEN puts its addresses in the registers and clears the counters (R170). -/
theorem rxOpened_legal (hs : RxLegal s) {a r : Addr} (ha : a < 2 ^ s.par.addrW)
    (hr : r < 2 ^ s.par.addrW) {out : Output} : RxLegal { s with
      rx := { s.rx with srcAddr := a, replyAddr := r, expected := 0, received := 0, state := .awaitFf
                        buf := none }
      out := out } :=
  ⟨⟨rfl, le_rfl, Nat.zero_le _, Nat.zero_le _⟩, hs.msg, ha, hr⟩

/-- After a Consecutive frame that is not the last, the offset is again 6 plus a multiple of 7 and the
sequence number has followed it (R33, R219). -/
theorem TxInv.sent_more (h : TxInv s) (hact : s.tx.state = .active)
    (hne : s.tx.offset.toNat + cfPayloadCount s ≠ s.tx.len.toNat) :
    s.tx.offset.toNat + cfPayloadCount s < s.tx.len.toNat ∧
    (s.tx.offset.toNat + cfPayloadCount s - 6) % 7 = 0 ∧
    s.tx.seq + 1 = BitVec.ofNat 4 (1 + (s.tx.offset.toNat + cfPayloadCount s - 6) / 7) := by
  have hlt := h.next_le_len.lt_of_ne hne
  obtain ⟨-, -, hactive⟩ := h
  obtain ⟨-, -, h6, -, hmod, hseq⟩ := hactive hact
  have h7 : cfPayloadCount s = 7 := by
    unfold cfPayloadCount Config.cfData at hlt ⊢
    omega
  rw [h7] at hlt ⊢
  refine ⟨hlt, by omega, ?_⟩
  rw [hseq, show (s.tx.offset.toNat + 7 - 6) / 7 = (s.tx.offset.toNat - 6) / 7 + 1 by omega,
    ← Nat.add_assoc]
  exact (BitVec.ofNat_add _ 1).symm

/-- A flow-control frame or TX_CONTINUE keeps the Send Session's part of the invariant (R33). -/
theorem TxEffect.txLegal (h : TxEffect i s t) (hs : TxLegal s) : TxLegal t := by
  obtain ⟨hc, hstore, haddr⟩ := hs
  obtain ⟨hoff, hmax, hactive⟩ := hc
  cases h with
  | granted ts _ => exact ⟨⟨hoff, hmax, hactive⟩, hstore, haddr⟩
  | overflow _ _ => exact ⟨⟨hoff, hmax, nofun⟩, hstore, haddr⟩
  | lost F _ _ _ _ => exact ⟨⟨hoff, hmax, nofun⟩, hstore, haddr⟩
  | sent F ts _ hact _ _ _ =>
    have hinv : TxInv s := ⟨hoff, hmax, hactive⟩
    have hoff' : (toLen (s.tx.offset.toNat + cfPayloadCount s)).toNat =
        s.tx.offset.toNat + cfPayloadCount s := toNat_toLen offset_fits
    refine ⟨⟨hoff'.trans_le hinv.next_le_len, hmax, fun hst => ?_⟩, hstore, haddr⟩
    have hne : s.tx.offset.toNat + cfPayloadCount s ≠ s.tx.len.toNat := fun he => by simp [he] at hst
    obtain ⟨h8, hff, h6, -⟩ := hactive hact
    simp only [hoff']
    exact ⟨h8, hff, h6.trans (Nat.le_add_right _ _), hinv.sent_more hact hne⟩

/-- The message TX_BEGIN captures lies in `TXMSG` (R212). -/
theorem begun_store {n len : Nat} (h : MemoryIn n s.tx.msg) (hlen : len ≤ n) (a : Addr)
    (d : List Byte) : MemoryIn n (begun a d len s).msg := by
  obtain ⟨hwf, hlt⟩ := h
  refine ⟨Memory.wf_write hwf 0 _, Memory.lt_of_mem_write hlt ?_⟩
  rw [List.length_take]
  omega

/-- TX_BEGIN keeps the Send Session's part of the invariant (R33, R210, R211). -/
theorem BeginEffect.txLegal {a : Addr} {d : List Byte} {len : Nat} (h : BeginEffect a d len s t)
    (hp : s.par.wf = true) (hs : TxLegal s) (hlen : len ≤ s.par.maxMsg) (ha : a < 2 ^ s.par.addrW) :
    TxLegal t := by
  have h16 := (maxMsg_range hp).2
  have hn : (begun a d len s).len.toNat = len := toNat_toLen (hlen.trans h16)
  have hmax : (begun a d len s).len.toNat ≤ s.par.maxMsg := hn.trans_le hlen
  have hstore := begun_store hs.store hlen a d
  cases h with
  | single F _ _ _ => exact ⟨⟨le_rfl, hmax, nofun⟩, hstore, ha⟩
  | lost F n _ _ _ _ => exact ⟨⟨Nat.zero_le _, hmax, nofun⟩, hstore, ha⟩
  | tooLong _ => exact ⟨⟨Nat.zero_le _, hmax, nofun⟩, hstore, ha⟩
  | multi F h8 hff _ _ =>
    have h8 : 8 ≤ (begun a d len s).len.toNat := h8.trans_eq hn.symm
    have h6 : 6 < (begun a d len s).len.toNat := by omega
    have hseq : (1 : BitVec 4) = BitVec.ofNat 4 (1 + ((6 : Len).toNat - 6) / 7) := by decide
    exact ⟨⟨h6.le, hmax, fun _ => ⟨h8, hn.trans_le (hff h16), le_rfl, h6, rfl, hseq⟩⟩, hstore, ha⟩

/-- The Receive Session's part depends on the parameters and `rx.*` only. -/
theorem RxLegal.congr (h : RxLegal s) (hp : t.par = s.par) (hrx : t.rx = s.rx) : RxLegal t := by
  obtain ⟨hc, hm, hsrc, hrep⟩ := h
  constructor <;> simp only [RxInv, hp, hrx] <;> assumption

/-- The Send Session's part depends on the parameters and `tx.*` only. -/
theorem TxLegal.congr (h : TxLegal s) (hp : t.par = s.par) (htx : t.tx = s.tx) : TxLegal t := by
  obtain ⟨hc, hm, ha⟩ := h
  constructor <;> simp only [TxInv, hp, htx] <;> assumption

/-- What the Receive Session does leaves the parameters, the configuration and the Send Session (R72). -/
theorem RxEffect.frame (h : RxEffect i s t) : t.par = s.par ∧ t.cfg = s.cfg ∧ t.tx = s.tx := by
  cases h <;> exact ⟨rfl, rfl, rfl⟩

/-- What the Send Session does leaves the parameters, the configuration and the Receive Session (R72). -/
theorem TxEffect.frame (h : TxEffect i s t) : t.par = s.par ∧ t.cfg = s.cfg ∧ t.rx = s.rx := by
  cases h <;> exact ⟨rfl, rfl, rfl⟩

/-- TX_BEGIN leaves the parameters, the configuration and the Receive Session (R72). -/
theorem BeginEffect.frame {a : Addr} {d : List Byte} {len : Nat} (h : BeginEffect a d len s t) :
    t.par = s.par ∧ t.cfg = s.cfg ∧ t.rx = s.rx := by
  cases h <;> exact ⟨rfl, rfl, rfl⟩

/-- Preservation: an instruction that can be presented leaves a legal state (R25, R33). -/
theorem Effect.inv (h : Effect i s t) (hs : Inv s) (hi : i.wf s.par = true) : Inv t := by
  obtain ⟨hp, hrx, htx, hc⟩ := inv_iff.mp hs
  cases h with
  | output o r _ _ => exact hs
  | opened a r hio =>
    subst hio
    simp only [Instr.wf, Bool.and_eq_true] at hi
    have ⟨ha, hr⟩ := hi.imp Laws.Presentable.addr_lt Laws.Presentable.addr_lt
    exact inv_iff.mpr ⟨hp, rxOpened_legal hrx ha hr, htx.congr rfl rfl, hc⟩
  | rx _ _ h =>
    obtain ⟨hpar, hcfg, htx'⟩ := h.frame
    exact inv_iff.mpr ⟨hpar ▸ hp, h.rxLegal hp hrx, htx.congr hpar htx', by rwa [hpar, hcfg]⟩
  | tx _ _ h =>
    obtain ⟨hpar, hcfg, hrx'⟩ := h.frame
    exact inv_iff.mpr ⟨hpar ▸ hp, hrx.congr hpar hrx', h.txLegal htx, by rwa [hpar, hcfg]⟩
  | begin a d len hib hlen h =>
    subst hib
    simp only [Instr.wf, Bool.and_eq_true] at hi
    have htx := h.txLegal hp htx hlen (Laws.Presentable.addr_lt hi.1)
    obtain ⟨hpar, hcfg, hrx'⟩ := h.frame
    exact inv_iff.mpr ⟨hpar ▸ hp, hrx.congr hpar hrx', htx, by rwa [hpar, hcfg]⟩

end Preservation

/-- Settles O35: progress by the bounds of the invariant, preservation by the effect of the instruction. -/
theorem noCommandFaultsInALegalState : Obligations.NoCommandFaultsInALegalState := by
  intro s i hs hi
  obtain ⟨t, ht⟩ := exec_next hs hi
  exact ⟨t, ht, (exec_effect ht).inv hs hi⟩

/-! ### The step on a packet -/

/-- A packet at the head of the inbox is taken off it and presented (R12). -/
theorem step_packet {s : State} {p : Packet} {rest : List Request} (h : s.inbox = .packet p :: rest) :
    step s = stepPacket p { s with inbox := rest } := by
  simp only [step, taken, h, List.tail_cons]

theorem stepPacket_ok {s : State} {p : Packet} {i : Instr} (hd : decode p = .ok i) :
    stepPacket p s = if i.wf s.par then exec i s else .refused .operandOutOfRange := by
  simp only [stepPacket, hd]

theorem stepPacket_error {s : State} {p : Packet} {e : DecodeError} (hd : decode p = .error e) :
    stepPacket p s = .refused (.undecodable e) := by
  simp only [stepPacket, hd]

/-- Settles O1: the decoder's answer and the operand check select one of the three cases. -/
theorem stepRunsTheDecodedInstruction : Obligations.StepRunsTheDecodedInstruction := by
  intro s p rest h
  rw [step_packet h]
  refine ⟨fun i hd hi => ?_, fun i hd hi => ?_, fun e hd => stepPacket_error hd⟩
  · rw [stepPacket_ok hd, if_pos hi]
  · rw [stepPacket_ok hd, if_neg (Bool.eq_false_iff.mp hi)]

end Sys2Proof.Machine

/-! ## State (10_state.md): reset, configuration writes, and what every step keeps -/

namespace Sys2Proof.Machine

section State

variable {i : Instr} {s t : State} {rest : List Request}

/-! ### Reset (R50) -/

/-- The context 0 that a reset leaves is a value of every `CTX` (R8). -/
theorem ctxOk_zero {p : Params} (h : p.wf = true) : p.ctxOk 0 = true := by
  simp only [Params.wf, Bool.and_eq_true, decide_eq_true_eq] at h
  obtain ⟨-, hsize⟩ := h
  unfold Params.ctxOk
  split
  · rfl
  · next n hn => exact decide_eq_true (Nat.pos_of_ne_zero fun h0 => hsize (h0 ▸ hn))

/-- No session is open and no buffer is live, the counters and addresses are 0, the stores are empty. -/
theorem inv_resetWith {p : Params} (h : p.wf = true) : Inv (State.resetWith p) := by
  have haddr : 0 < 2 ^ p.addrW := Nat.two_pow_pos _
  have hrx : RxLegal (State.resetWith p) :=
    ⟨⟨rfl, le_rfl, Nat.zero_le _, Nat.zero_le _⟩, ⟨⟨rfl, nofun⟩, Nat.zero_le _, haddr⟩, haddr, haddr⟩
  have htx : TxLegal (State.resetWith p) := ⟨⟨le_rfl, Nat.zero_le _, nofun⟩, ⟨rfl, nofun⟩, haddr⟩
  exact inv_iff.mpr ⟨h, hrx, htx, ctxOk_zero h⟩

/-! ### What a step can do -/

/-- What the head request of the inbox makes of the state, when the step answers a next state (R12). -/
inductive StepEffect (s : State) : State → Prop where
  /-- There is no request (R289). -/
  | idle : StepEffect s (idle s)
  /-- A packet holds an instruction that can be presented (R107). -/
  | executed {t : State} (i : Instr) : i.wf s.par = true → exec i (taken s) = .next t → StepEffect s t
  /-- The host writes a configuration bit (R21, R322). -/
  | wrotePad (b : Bool) : StepEffect s (writePad b (taken s))
  | wroteLogEn (b : Bool) : StepEffect s (writeLogEn b (taken s))
  /-- The host writes a context that is a value of `CTX` (R8, R21). -/
  | wroteContext (c : Ctx) : s.par.ctxOk c = true → StepEffect s (writeContext c (taken s))
  /-- A hardware reset (R310). -/
  | reset : StepEffect s (hardReset (taken s))

/-- A packet answers a next state only by executing an instruction that can be presented. -/
theorem stepPacket_next {p : Packet} (h : stepPacket p s = .next t) :
    ∃ i : Instr, i.wf s.par = true ∧ exec i s = .next t := by
  unfold stepPacket at h
  split at h
  · cases h
  · next i _ =>
    split_ifs at h with hi
    exact ⟨i, hi, h⟩

/-- Only a value of `CTX` can be written to `cfg.context` (R8, R21). -/
theorem hostWritesContext_next {c : Ctx} (h : hostWritesContext c s = .next t) :
    s.par.ctxOk c = true ∧ t = writeContext c s := by
  unfold hostWritesContext at h
  split_ifs at h with hc
  exact ⟨hc, (Host.Outcome.next.inj h).symm⟩

/-- Everything a step can do when it answers a next state. -/
theorem step_effect (h : step s = .next t) : StepEffect s t := by
  unfold step at h
  split at h
  · exact Host.Outcome.next.inj h ▸ .idle
  · obtain ⟨i, hi, he⟩ := stepPacket_next h
    exact .executed i hi he
  · exact Host.Outcome.next.inj h ▸ .wrotePad _
  · exact Host.Outcome.next.inj h ▸ .wroteLogEn _
  · obtain ⟨hc, rfl⟩ := hostWritesContext_next h
    exact .wroteContext _ hc
  · exact Host.Outcome.next.inj h ▸ .reset

/-- Preservation for whole steps. The requests, the output and the two configuration bits are not part of
the invariant. -/
theorem StepEffect.inv (h : StepEffect s t) (hs : Inv s) : Inv t := by
  obtain ⟨hp, hrx, htx, -⟩ := inv_iff.mp hs
  cases h with
  | idle => exact hs
  | executed i hi he => exact (exec_effect he).inv (s := taken s) hs hi
  | wrotePad b => exact hs
  | wroteLogEn b => exact hs
  | wroteContext c hc => exact inv_iff.mpr ⟨hp, hrx.congr rfl rfl, htx.congr rfl rfl, hc⟩
  | reset => exact inv_resetWith hp

/-! ### Configuration writes (R21, R322) -/

/-- Taking the head request changes nothing but the inbox. -/
theorem taken_eq {r : Request} (h : s.inbox = r :: rest) : taken s = { s with inbox := rest } := by
  simp only [taken, h, List.tail_cons]

theorem step_writePad {b : Bool} (h : s.inbox = .writePad b :: rest) :
    step s = .next (writePad b { s with inbox := rest }) := by
  rw [← taken_eq h]
  simp only [step, h]

theorem step_writeLogEn {b : Bool} (h : s.inbox = .writeLogEn b :: rest) :
    step s = .next (writeLogEn b { s with inbox := rest }) := by
  rw [← taken_eq h]
  simp only [step, h]

theorem step_writeContext {c : Ctx} (h : s.inbox = .writeContext c :: rest) :
    step s = hostWritesContext c { s with inbox := rest } := by
  rw [← taken_eq h]
  simp only [step, h]

/-! ### What an instruction leaves unchanged (R20, R72, R280) -/

/-- The parameters, the configuration and the requests are the host's. -/
theorem Effect.host_frame (h : Effect i s t) : t.par = s.par ∧ t.cfg = s.cfg ∧ t.inbox = s.inbox := by
  cases h with
  | output | opened => exact ⟨rfl, rfl, rfl⟩
  | rx _ _ h => cases h <;> exact ⟨rfl, rfl, rfl⟩
  | tx _ _ h => cases h <;> exact ⟨rfl, rfl, rfl⟩
  | begin _ _ _ _ _ h => cases h <;> exact ⟨rfl, rfl, rfl⟩

theorem RxEffect.tx_eq (h : RxEffect i s t) : t.tx = s.tx := by
  obtain ⟨-, -, htx⟩ := h.frame
  exact htx

theorem TxEffect.rx_eq (h : TxEffect i s t) : t.rx = s.rx := by
  obtain ⟨-, -, hrx⟩ := h.frame
  exact hrx

theorem BeginEffect.rx_eq {a : Addr} {d : List Byte} {len : Nat} (h : BeginEffect a d len s t) :
    t.rx = s.rx := by
  obtain ⟨-, -, hrx⟩ := h.frame
  exact hrx

/-- Only an instruction of the Receive Session writes its registers and stores. -/
theorem Effect.rx_frame (h : Effect i s t) (hr : receives i = false) : t.rx = s.rx := by
  cases h with
  | output => rfl
  | opened a r hi => simp [hi, receives] at hr
  | rx hr' => simp [hr'] at hr
  | tx _ _ h => exact h.rx_eq
  | begin _ _ _ _ _ h => exact h.rx_eq

/-- Only an instruction of the Send Session writes its registers and stores. -/
theorem Effect.tx_frame (h : Effect i s t) (hx : sends i = false) : t.tx = s.tx := by
  cases h with
  | output | opened => rfl
  | rx _ _ h => exact h.tx_eq
  | tx hx' => simp [hx'] at hx
  | begin a d len hi => simp [hi, sends] at hx

/-! ### A finished session stays as it is (R42) -/

/-- A frame writes receive registers only while the session waits for it. -/
theorem RxEffect.rx_eq_of_complete (h : RxEffect i s t) (hc : rxIsComplete s = true) : t.rx = s.rx := by
  cases h with
  | refused => rfl
  | single _ _ hst | accepted _ _ _ hst | full _ _ hst | short _ _ hst | more _ _ _ _ hst =>
    simp [rxIsComplete, hst] at hc

/-- Flow control and TX_CONTINUE act on an active transfer only. -/
theorem TxEffect.active (h : TxEffect i s t) : s.tx.state = .active := by
  cases h with
  | granted _ hst | overflow _ hst | sent _ _ _ hst | lost _ _ hst => exact hst

/-- Once the Receive Session is complete only RX_OPEN writes its registers. -/
theorem Effect.rx_eq_of_complete (h : Effect i s t) (hc : rxIsComplete s = true)
    (ho : ∀ a r, i ≠ .rxOpen a r) : t.rx = s.rx := by
  cases h with
  | output => rfl
  | opened a r hi => exact absurd hi (ho a r)
  | rx _ _ h => exact h.rx_eq_of_complete hc
  | tx _ _ h => exact h.rx_eq
  | begin _ _ _ _ _ h => exact h.rx_eq

/-- Once the Send Session is complete only TX_BEGIN writes its registers. -/
theorem Effect.tx_eq_of_complete (h : Effect i s t) (hc : txIsComplete s = true)
    (hb : ∀ a d n, i ≠ .txBegin a d n) : t.tx = s.tx := by
  cases h with
  | output | opened => rfl
  | rx _ _ h => exact h.tx_eq
  | tx _ _ h => simp [txIsComplete, h.active] at hc
  | begin a d len hi => exact absurd hi (hb a d len)

/-- The receive flags are views of the session's registers (R23). -/
theorem rxFlags_congr (h : t.rx = s.rx) :
    rxIsComplete t = rxIsComplete s ∧ rxIsSuccessful t = rxIsSuccessful s := by
  simp only [rxIsComplete, rxIsSuccessful, h, and_self]

/-- The send flags are views of the session's registers (R31). -/
theorem txFlags_congr (h : t.tx = s.tx) :
    txIsComplete t = txIsComplete s ∧ txIsSuccessful t = txIsSuccessful s := by
  simp only [txIsComplete, txIsSuccessful, h, and_self]

/-! ### The receive buffer (R25) and the receive transitions (R24, R173) -/

/-- A buffer is live exactly while the session reassembles. -/
theorem RxInv.bufLive_iff (h : RxInv s) : rxBufLive s = true ↔ s.rx.state = .reassembling := by
  by_cases hs : s.rx.state = .reassembling
  · obtain ⟨b, hb, -⟩ := h.buf_eq hs
    simp [rxBufLive, hb, hs]
  · obtain ⟨hb, -⟩ := h
    rw [if_neg hs, Option.map_eq_none_iff] at hb
    simp [rxBufLive, hb, hs]

/-- The live buffer has `rx.expected` bytes. -/
theorem RxInv.buf_length (h : RxInv s) {b : List Byte} (hb : s.rx.buf = some b) :
    b.length = s.rx.expected.toNat := by
  obtain ⟨b', hb', hlen⟩ := h.buf_eq (h.bufLive_iff.mp (by simp [rxBufLive, hb]))
  obtain rfl : b' = b := Option.some.inj (hb'.symm.trans hb)
  exact hlen

/-- What a Consecutive frame adds does not overflow `rx.received`, so the register tells whether the
buffer is full (R222). -/
theorem received_ne_expected {got : Nat} (hgot : got ≤ rxMissing s)
    (hne : s.rx.received.toNat + got ≠ s.rx.expected.toNat) :
    toLen (s.rx.received.toNat + got) ≠ s.rx.expected := by
  have hfits : s.rx.received.toNat + got ≤ 65535 := by
    have hr := len_le s.rx.received
    have he := len_le s.rx.expected
    unfold rxMissing at hgot
    omega
  rwa [Ne, toLen_eq_iff hfits]

/-- The table's transitions of `rx.state` on a frame (R173). -/
theorem RxEffect.transition (h : RxEffect i s t) (hne : t.rx.state ≠ s.rx.state) :
    (PresentsSingle i ∧ s.rx.state = .awaitFf ∧ t.rx.state = .complete) ∨
    (PresentsFirst i ∧ s.rx.state = .awaitFf ∧ t.rx.state = .reassembling) ∨
    (PresentsConsecutive i ∧ s.rx.state = .reassembling ∧
      ((t.rx.state = .complete ∧ t.rx.received = t.rx.expected) ∨
        (t.rx.state = .failed ∧ t.rx.received ≠ t.rx.expected))) := by
  cases h with
  | refused => exact absurd rfl hne
  | single _ hi hst => exact .inl ⟨hi, hst, rfl⟩
  | accepted _ _ hi hst => exact .inr (.inl ⟨hi, hst, rfl⟩)
  | full _ hi hst => exact .inr (.inr ⟨hi, hst, .inl ⟨rfl, rfl⟩⟩)
  | short got hi hst hgot hshort =>
    exact .inr (.inr ⟨hi, hst, .inr ⟨rfl, received_ne_expected hgot hshort⟩⟩)
  | more => exact absurd rfl hne

end State

/-! ### The statements -/

/-- Settles O34: each thing a step can do keeps the invariant. -/
theorem stepKeepsTheInvariants : Obligations.StepKeepsTheInvariants :=
  fun _ _ hs h => (step_effect h).inv hs

/-- Settles O33: the invariant of the next state, and a finished session that only RX_OPEN touches. -/
theorem receiveInvariantsHoldAfterEveryCommand : Obligations.ReceiveInvariantsHoldAfterEveryCommand := by
  intro s t i hs hi h
  have he := exec_effect h
  obtain ⟨-, hrx, -⟩ := he.inv hs hi
  have ⟨_, hreceived, hmax, hff⟩ := hrx
  exact ⟨hrx.bufLive_iff, fun _ => hrx.buf_length, hreceived, hmax, hff, fun hc ho =>
    (rxFlags_congr (he.rx_eq_of_complete hc ho)).1.trans hc⟩

/-- Settles O36: the frame of each kind of effect. -/
theorem sessionsShareNoMutableState : Obligations.SessionsShareNoMutableState := by
  intro s t i h
  have he := exec_effect h
  obtain ⟨hpar, hcfg, hinbox⟩ := he.host_frame
  exact ⟨hpar, hcfg, hinbox, he.rx_frame, he.tx_frame⟩

/-- Settles O38: a complete session keeps its registers, so both its flags, until it is constructed anew. -/
theorem completionIsMonotonic : Obligations.CompletionIsMonotonic := by
  intro s t i h
  have he := exec_effect h
  constructor
  · intro hc ho
    exact (rxFlags_congr (he.rx_eq_of_complete hc ho)).imp_left (·.trans hc)
  · intro hc hb
    exact (txFlags_congr (he.tx_eq_of_complete hc hb)).imp_left (·.trans hc)

/-- Settles O39: RX_OPEN, or a transition of the table on a frame; no other effect changes `rx.state`. -/
theorem receiveTransitionsAreThoseOfTheTable : Obligations.ReceiveTransitionsAreThoseOfTheTable := by
  intro s t i h hne
  cases exec_effect h with
  | output => exact absurd rfl hne
  | opened a r hi => exact .inl ⟨⟨a, r, hi⟩, rfl⟩
  | rx _ _ h => exact .inr (h.transition hne)
  | tx _ _ h => exact absurd (congrArg RxSession.state h.rx_eq) hne
  | begin _ _ _ _ _ h => exact absurd (congrArg RxSession.state h.rx_eq) hne

/-- Settles O2: each value is the one `State.resetWith` gives the register. -/
theorem resetLeavesTheStatedValues : Obligations.ResetLeavesTheStatedValues := fun _ =>
  ⟨rfl, rfl, rfl, rfl, rfl, rfl, rfl, rfl, rfl, rfl, rfl, rfl, rfl, rfl, rfl, rfl⟩

/-- Settles O4: the step on each kind of write, with the check of the context. -/
theorem configurationWriteChangesOneRegister : Obligations.ConfigurationWriteChangesOneRegister := by
  intro s rest b c
  refine ⟨step_writePad, step_writeLogEn, fun h => ⟨fun hc => ?_, fun hc => ?_⟩⟩
  · rw [step_writeContext h, hostWritesContext, if_pos hc]
    rfl
  · rw [step_writeContext h, hostWritesContext, if_neg (Bool.eq_false_iff.mp hc)]

/-- Settles O32: the reset state is legal for parameters in range, and the recommended ones are. -/
theorem resetStateIsLegal : Obligations.ResetStateIsLegal :=
  ⟨inv_resetWith (by decide), fun _ => inv_resetWith⟩

end Sys2Proof.Machine

/-! ## Memory (20_memory.md): who writes the stores, and which bytes of a frame are read -/

namespace Sys2Proof.Machine

section Memory

variable {i : Instr} {s t : State} {a : Addr} {f g : Frame}

/-! ### The writers of the stores (R60) -/

/-- Flow control and TX_CONTINUE read `TXMSG` at most. -/
theorem TxEffect.txMsg_eq (h : TxEffect i s t) : t.tx.msg = s.tx.msg := by
  cases h <;> rfl

/-- Only TX_BEGIN writes `TXMSG`. -/
theorem Effect.txMsg_eq (h : Effect i s t) (hb : ∀ a d n, i ≠ .txBegin a d n) :
    t.tx.msg = s.tx.msg := by
  cases h with
  | output | opened => rfl
  | rx _ _ h => rw [h.tx_eq]
  | tx _ _ h => exact h.txMsg_eq
  | begin a d len hi => exact absurd hi (hb a d len)

/-- A frame writes `RXMSG` only where it makes the session COMPLETE, and then it was not so before. -/
theorem RxEffect.rxMsg_eq (h : RxEffect i s t) (hc : t.rx.state ≠ .complete ∨ s.rx.state = .complete) :
    t.rx.msg = s.rx.msg := by
  cases h with
  | refused | accepted | short | more => rfl
  | single _ _ hst | full _ _ hst => simp [hst] at hc

/-- `RXMSG` is written only by the step that makes the Receive Session COMPLETE. -/
theorem Effect.rxMsg_eq (h : Effect i s t) (hc : t.rx.state ≠ .complete ∨ s.rx.state = .complete) :
    t.rx.msg = s.rx.msg := by
  cases h with
  | output | opened => rfl
  | rx _ _ h => exact h.rxMsg_eq hc
  | tx _ _ h => rw [h.rx_eq]
  | begin _ _ _ _ _ h => rw [h.rx_eq]

/-- Of the frames a First frame in AWAIT_FF and a Consecutive frame in REASSEMBLING write `RXBUF`. -/
theorem RxEffect.rxBuf_eq (h : RxEffect i s t) (hf : ¬ (s.rx.state = .awaitFf ∧ PresentsFirst i))
    (hc : ¬ (s.rx.state = .reassembling ∧ PresentsConsecutive i)) : t.rx.buf = s.rx.buf := by
  cases h with
  | refused | single => rfl
  | accepted _ _ hi hst => exact absurd ⟨hst, hi⟩ hf
  | full _ hi hst | short _ hi hst | more _ _ _ hi hst => exact absurd ⟨hst, hi⟩ hc

/-- `RXBUF` is written by RX_OPEN and by those two frames only. -/
theorem Effect.rxBuf_eq (h : Effect i s t) (ho : ∀ a r, i ≠ .rxOpen a r)
    (hf : ¬ (s.rx.state = .awaitFf ∧ PresentsFirst i))
    (hc : ¬ (s.rx.state = .reassembling ∧ PresentsConsecutive i)) : t.rx.buf = s.rx.buf := by
  cases h with
  | output => rfl
  | opened a r hi => exact absurd hi (ho a r)
  | rx _ _ h => exact h.rxBuf_eq hf hc
  | tx _ _ h => rw [h.rx_eq]
  | begin _ _ _ _ _ h => rw [h.rx_eq]

/-! ### Frames that agree on their valid bytes (R69) -/

/-- The two frames have the same valid length and the same valid bytes. -/
structure AgreeOnValid (f g : Frame) : Prop where
  dlen : f.dlen = g.dlen
  bytes : ∀ k < f.dlen.val, frameByte f k = frameByte g k

namespace AgreeOnValid

/-- A field of byte `i` is present in both frames or in neither; its value matters only if present. -/
theorem fieldAt_eq (h : AgreeOnValid f g) {i v w : Nat} (hv : i < f.dlen.val → v = w) :
    fieldAt f i v = fieldAt g i w := by
  unfold fieldAt
  rw [← h.dlen]
  split_ifs with hi
  · rw [hv hi]
  · rfl

/-- The three header bytes, where they are valid. -/
theorem b0_eq (h : AgreeOnValid f g) (hi : 0 < f.dlen.val) : f.bytes.b0 = g.bytes.b0 := h.bytes 0 hi
theorem b1_eq (h : AgreeOnValid f g) (hi : 1 < f.dlen.val) : f.bytes.b1 = g.bytes.b1 := h.bytes 1 hi
theorem b2_eq (h : AgreeOnValid f g) (hi : 2 < f.dlen.val) : f.bytes.b2 = g.bytes.b2 := h.bytes 2 hi

/-! The decode functions read valid header bytes only (R131 to R139). -/

theorem decType_eq (h : AgreeOnValid f g) : decType f = decType g :=
  h.fieldAt_eq fun hi => by rw [h.b0_eq hi]

theorem decSfDl_eq (h : AgreeOnValid f g) : decSfDl f = decSfDl g :=
  h.fieldAt_eq fun hi => by rw [h.b0_eq hi]

/-- FF_DL is present when byte 1 is valid, and then byte 0 is valid too. -/
theorem decFfDl_eq (h : AgreeOnValid f g) : decFfDl f = decFfDl g :=
  h.fieldAt_eq fun hi => by rw [h.b0_eq (Nat.zero_lt_of_lt hi), h.b1_eq hi]

theorem decCfSn_eq (h : AgreeOnValid f g) : decCfSn f = decCfSn g :=
  h.fieldAt_eq fun hi => by rw [h.b0_eq hi]

theorem decFcFs_eq (h : AgreeOnValid f g) : decFcFs f = decFcFs g :=
  h.fieldAt_eq fun hi => by rw [h.b0_eq hi]

theorem decFcBs_eq (h : AgreeOnValid f g) : decFcBs f = decFcBs g :=
  h.fieldAt_eq fun hi => by rw [h.b1_eq hi]

theorem decFcSt_eq (h : AgreeOnValid f g) : decFcSt f = decFcSt g :=
  h.fieldAt_eq fun hi => by rw [h.b2_eq hi]

/-! ### Payload runs: a handler copies no more bytes than are valid (R68, R174 to R176) -/

/-- A run of valid bytes reads the same from both frames. -/
theorem bytesRead_eq (h : AgreeOnValid f g) {i n : Nat} (hn : n ≤ f.dlen.val - i) :
    bytesRead f.bytes.toList i n = bytesRead g.bytes.toList i n := by
  have hdlen : f.dlen.val ≤ 8 := Nat.le_of_lt_succ f.dlen.isLt
  refine List.ext_getElem? fun k => ?_
  by_cases hk : k < n
  · rw [getElem?_frame_read hk (by omega), getElem?_frame_read hk (by omega), h.bytes _ (by omega)]
  · have hlen (F : FrameBytes) : (bytesRead F.toList i n).length ≤ k := by
      rw [length_bytesRead]
      omega
    rw [List.getElem?_eq_none (hlen _), List.getElem?_eq_none (hlen _)]

theorem singleMsg_eq (h : AgreeOnValid f g) {dl : Nat} (hdl : dl ≤ f.dlen.val - 1) :
    singleMsg a f dl = singleMsg a g dl := by
  rw [singleMsg, singleMsg, h.bytesRead_eq hdl]

theorem ffCount_eq (h : AgreeOnValid f g) (total : Nat) : ffCount f total = ffCount g total := by
  rw [ffCount, ffCount, h.dlen]

theorem ffBuffer_eq (h : AgreeOnValid f g) (k total : Nat) : ffBuffer k f total = ffBuffer k g total := by
  have hread : bytesRead f.bytes.toList 2 (ffCount f total) = bytesRead g.bytes.toList 2 (ffCount f total) :=
    h.bytesRead_eq (Nat.min_le_left _ _)
  rw [ffBuffer, ffBuffer, hread, h.ffCount_eq]

theorem cfCount_eq (h : AgreeOnValid f g) (s : State) : cfCount f s = cfCount g s := by
  rw [cfCount, cfCount, h.dlen]

/-- The payload of a Consecutive frame. -/
theorem cfRead_eq (h : AgreeOnValid f g) (s : State) :
    bytesRead f.bytes.toList 1 (cfCount g s) = bytesRead g.bytes.toList 1 (cfCount g s) :=
  h.bytesRead_eq (h.dlen ▸ Nat.min_le_left _ _)

/-! ### The handlers and the two commands that take a frame -/

/-- A Single frame that declares more than is valid is ignored, so its payload is valid bytes. -/
theorem rxSingle_eq (h : AgreeOnValid f g) : rxSingle a f s = rxSingle a g s := by
  unfold rxSingle
  rw [← h.decSfDl_eq, ← h.dlen]
  cases decSfDl f with
  | none => rfl
  | some dl =>
    dsimp only
    split_ifs with hst hdl
    · rfl
    · rfl
    · obtain ⟨-, hvalid⟩ := not_or.mp hdl
      rw [h.singleMsg_eq (not_lt.mp hvalid)]

theorem rxAcceptFirst_eq (h : AgreeOnValid f g) (total k : Nat) :
    rxAcceptFirst a f total k s = rxAcceptFirst a g total k s := by
  rw [rxAcceptFirst, rxAcceptFirst, h.ffBuffer_eq, h.ffCount_eq]

theorem rxFirst_eq (h : AgreeOnValid f g) : rxFirst a f s = rxFirst a g s := by
  simp only [rxFirst, h.decFfDl_eq, h.rxAcceptFirst_eq]

theorem rxConsecutive_eq (h : AgreeOnValid f g) : rxConsecutive a f s = rxConsecutive a g s := by
  simp only [rxConsecutive, h.cfCount_eq, h.cfRead_eq]

theorem rxDispatch_eq (h : AgreeOnValid f g) (s : State) : rxDispatch a f s = rxDispatch a g s := by
  simp only [rxDispatch, h.decType_eq, h.rxSingle_eq, h.rxFirst_eq, h.rxConsecutive_eq]

theorem execRxFrame_eq (h : AgreeOnValid f g) : execRxFrame a f s = execRxFrame a g s := by
  simp only [execRxFrame, rxEnter, h.dlen, h.rxDispatch_eq]

theorem txFcDispatch_eq (h : AgreeOnValid f g) (s : State) : txFcDispatch f s = txFcDispatch g s := by
  simp only [txFcDispatch, txFcContinue, h.decFcFs_eq, h.decFcBs_eq]

theorem execTxFc_eq (h : AgreeOnValid f g) : execTxFc a f s = execTxFc a g s := by
  simp only [execTxFc, txFcEnter, h.dlen, h.decType_eq, h.txFcDispatch_eq]

end AgreeOnValid

/-- A decode function answers its field and nothing else (R130). -/
theorem answerField_congr {v w : Option Nat} (h : v = w) :
    (.next (done (.field v) (start s)) : Answer) = .next (done (.field w) (start s)) := by
  rw [h]

end Memory

/-! ### The statements -/

/-- Settles O37: each store is unchanged by every effect but those of its writers. -/
theorem storesAreWrittenOnlyByTheirWriters : Obligations.StoresAreWrittenOnlyByTheirWriters := by
  intro s t i h
  have he := exec_effect h
  refine ⟨fun hb j => by rw [he.txMsg_eq hb], fun hc => ?_, he.rxBuf_eq⟩
  have hmsg := he.rxMsg_eq hc
  exact ⟨hmsg, fun j => by rw [hmsg]⟩

/-- Settles O46: every field and every payload run that is read lies within the valid bytes. -/
theorem invalidBytesAreNeverRead : Obligations.InvalidBytesAreNeverRead := by
  intro s a f g hdlen hbytes
  have h : AgreeOnValid f g := ⟨hdlen, hbytes⟩
  exact ⟨h.execRxFrame_eq, h.execTxFc_eq (a := a), answerField_congr h.decType_eq,
    answerField_congr h.decSfDl_eq, answerField_congr h.decFfDl_eq, answerField_congr h.decCfSn_eq,
    answerField_congr h.decFcFs_eq, answerField_congr h.decFcBs_eq, answerField_congr h.decFcSt_eq⟩

end Sys2Proof.Machine

/-! ## Encoding (30_encoding.md): the formats of a frame, the decoder, what a delivered frame does -/

namespace Sys2Proof.Machine

section Encoding

variable {a : Addr} {f : Frame} {s : State} {n : Fin 9}

/-! ### The formats of a frame (R91, R106) -/

/-- The codes of a type or status nibble: 0 to 3 by value, the others by the row of the opcode table that
holds them (R106). -/
inductive NibbleCode : Nibble → Prop where
  | zero : NibbleCode 0
  | one : NibbleCode 1
  | two : NibbleCode 2
  | three : NibbleCode 3
  | from4to7 (x : BitVec 2) : NibbleCode (nibble4to7 x)
  | from8to15 (x : BitVec 3) : NibbleCode (nibble8to15 x)

@[simp] theorem nibble4to7_low (x : BitVec 2) : (nibble4to7 x).extractLsb' 0 2 = x := by
  revert x; decide

@[simp] theorem nibble8to15_low (x : BitVec 3) : (nibble8to15 x).extractLsb' 0 3 = x := by
  revert x; decide

/-- A nibble of 4 to 7 is `01` over its two low bits. -/
theorem nibble4to7_of_range {v : Nibble} (h4 : 4 ≤ v.toNat) (h8 : v.toNat < 8) :
    nibble4to7 (v.extractLsb' 0 2) = v := by
  revert v; decide

/-- A nibble of 8 to 15 is `1` over its three low bits. -/
theorem nibble8to15_of_range {v : Nibble} (h8 : 8 ≤ v.toNat) : nibble8to15 (v.extractLsb' 0 3) = v := by
  revert v; decide

/-- The codes leave out no nibble. -/
theorem nibbleCode (v : Nibble) : NibbleCode v := by
  rcases Nat.lt_or_ge v.toNat 4 with h4 | h4
  · have hv : v = 0 ∨ v = 1 ∨ v = 2 ∨ v = 3 := by revert v; decide
    rcases hv with rfl | rfl | rfl | rfl
    · exact .zero
    · exact .one
    · exact .two
    · exact .three
  · rcases Nat.lt_or_ge v.toNat 8 with h8 | h8
    · exact nibble4to7_of_range h4 h8 ▸ .from4to7 _
    · exact nibble8to15_of_range h8 ▸ .from8to15 _

/-- A frame by its format (R91). -/
inductive FrameFormat : Frame → Prop where
  | sf (dl : Nibble) (t : Tail1) (n : Fin 9) : FrameFormat (frameSf dl t n)
  | ff (total : BitVec 12) (t : Tail2) (n : Fin 9) : FrameFormat (frameFf total t n)
  | cf (sn : Nibble) (t : Tail1) (n : Fin 9) : FrameFormat (frameCf sn t n)
  | fc (fs : Nibble) (bs st : Byte) (t : Tail3) (n : Fin 9) : FrameFormat (frameFc fs bs st t n)
  | rsvd4to7 (tt : BitVec 2) (low : Nibble) (t : Tail1) (n : Fin 9) :
      FrameFormat (frameWithTail1 (nibble4to7 tt) low t n)
  | rsvd8to15 (tt : BitVec 3) (low : Nibble) (t : Tail1) (n : Fin 9) :
      FrameFormat (frameWithTail1 (nibble8to15 tt) low t n)

/-- A frame is its two header nibbles and its other bytes (R64). -/
theorem frameWithTail1_split (f : Frame) :
    frameWithTail1 (hiNibble f.bytes.b0) (loNibble f.bytes.b0) f.bytes.tail1 f.dlen = f := by
  simp only [frameWithTail1, joinNibbles_split, FrameBytes.tail1]

/-- A frame of type 1 is a First frame (R93). -/
theorem frameWithTail1_one (low : Nibble) (t : Tail1) (n : Fin 9) :
    frameWithTail1 1 low t n = frameFf (joinFfDl low t.b1) ⟨t.b2, t.b3, t.b4, t.b5, t.b6, t.b7⟩ n := by
  simp only [frameWithTail1, frameFf, ffDlHigh_joinFfDl, ffDlLow_joinFfDl]

/-- Every frame has one of the formats: its type nibble decides (R91). -/
theorem frameFormat (f : Frame) : FrameFormat f := by
  rw [← frameWithTail1_split f]
  generalize hiNibble f.bytes.b0 = ty
  cases nibbleCode ty with
  | zero => exact .sf _ _ _
  | one => exact frameWithTail1_one _ _ _ ▸ .ff _ _ _
  | two => exact .cf _ _ _
  | three => exact .fc _ _ _ ⟨_, _, _, _, _⟩ _
  | from4to7 x => exact .rsvd4to7 x _ _ _
  | from8to15 x => exact .rsvd8to15 x _ _ _

/-! ### The decoder on a frame of each format (R91, R96, R106) -/

theorem decodeFrame_frameSf (dl : Nibble) (t : Tail1) (h : 1 ≤ n.val) :
    decodeFrame a (frameSf dl t n) = .sf a dl t n := by
  simp [decodeFrame, frameSf, frameWithTail1, FrameBytes.tail1, Nat.ne_of_gt h]

theorem decodeFrame_frameFf (total : BitVec 12) (t : Tail2) (h : 1 ≤ n.val) :
    decodeFrame a (frameFf total t n) = .ff a total t n := by
  simp [decodeFrame, frameFf, FrameBytes.tail2, Nat.ne_of_gt h]

theorem decodeFrame_frameCf (sn : Nibble) (t : Tail1) (h : 1 ≤ n.val) :
    decodeFrame a (frameCf sn t n) = .cf a sn t n := by
  simp [decodeFrame, frameCf, frameWithTail1, FrameBytes.tail1, Nat.ne_of_gt h]

/-- A type of 4 or more (R100, R106). -/
theorem decodeFrame_unrecognized {ty : Nibble} (low : Nibble) (t : Tail1) (h : 1 ≤ n.val)
    (hty : 4 ≤ ty.toNat) :
    decodeFrame a (frameWithTail1 ty low t n) =
      if ty.toNat < 8 then .rsvdType4to7 a (ty.extractLsb' 0 2) low t n
      else .rsvdType8to15 a (ty.extractLsb' 0 3) low t n := by
  simp only [decodeFrame, frameWithTail1, hiNibble_joinNibbles, loNibble_joinNibbles,
    if_neg (Nat.ne_of_gt h)]
  split
  · omega
  · omega
  · omega
  · omega
  · rfl

theorem decodeFrame_rsvd4to7 (tt : BitVec 2) (low : Nibble) (t : Tail1) (h : 1 ≤ n.val) :
    decodeFrame a (frameWithTail1 (nibble4to7 tt) low t n) = .rsvdType4to7 a tt low t n := by
  have hty := toNat_nibble4to7 tt
  rw [decodeFrame_unrecognized low t h (by omega), if_pos (by omega), nibble4to7_low]

theorem decodeFrame_rsvd8to15 (tt : BitVec 3) (low : Nibble) (t : Tail1) (h : 1 ≤ n.val) :
    decodeFrame a (frameWithTail1 (nibble8to15 tt) low t n) = .rsvdType8to15 a tt low t n := by
  have hty := toNat_nibble8to15 tt
  rw [decodeFrame_unrecognized low t h (by omega), if_neg (by omega), nibble8to15_low]

theorem decodeFrame_frameFc (fs : Nibble) (bs st : Byte) (t : Tail3) (h : 1 ≤ n.val) :
    decodeFrame a (frameFc fs bs st t n) = decodeFlow a (frameFc fs bs st t n) := by
  simp [decodeFrame, frameFc, Nat.ne_of_gt h]

section Flow

variable (bs st : Byte) (t : Tail3)

theorem decodeFlow_cts : decodeFlow a (frameFc 0 bs st t n) = .fcCts a bs st t n := by
  simp [decodeFlow, frameFc, FrameBytes.tail3]

theorem decodeFlow_wait : decodeFlow a (frameFc 1 bs st t n) = .fcWait a bs st t n := by
  simp [decodeFlow, frameFc, FrameBytes.tail3]

theorem decodeFlow_ovflw : decodeFlow a (frameFc 2 bs st t n) = .fcOvflw a bs st t n := by
  simp [decodeFlow, frameFc, FrameBytes.tail3]

theorem decodeFlow_rsvd3 : decodeFlow a (frameFc 3 bs st t n) = .fcRsvd3 a bs st t n := by
  simp [decodeFlow, frameFc, FrameBytes.tail3]

/-- A status of 4 or more (R101, R106). -/
theorem decodeFlow_reserved {fs : Nibble} (hfs : 4 ≤ fs.toNat) :
    decodeFlow a (frameFc fs bs st t n) =
      if fs.toNat < 8 then .fcRsvd4to7 a (fs.extractLsb' 0 2) bs st t n
      else .fcRsvd8to15 a (fs.extractLsb' 0 3) bs st t n := by
  simp only [decodeFlow, frameFc, loNibble_joinNibbles]
  split
  · omega
  · omega
  · omega
  · omega
  · rfl

theorem decodeFlow_rsvd4to7 (ss : BitVec 2) :
    decodeFlow a (frameFc (nibble4to7 ss) bs st t n) = .fcRsvd4to7 a ss bs st t n := by
  have hss := toNat_nibble4to7 ss
  rw [decodeFlow_reserved bs st t (by omega), if_pos (by omega), nibble4to7_low]

theorem decodeFlow_rsvd8to15 (ss : BitVec 3) :
    decodeFlow a (frameFc (nibble8to15 ss) bs st t n) = .fcRsvd8to15 a ss bs st t n := by
  have hss := toNat_nibble8to15 ss
  rw [decodeFlow_reserved bs st t (by omega), if_neg (by omega), nibble8to15_low]

end Flow

/-! ### A packet that carries a frame (R69, R107) -/

/-- The frame on the lines is the one the packet was made from. -/
theorem withFrame_framePacket (sel : Select) (a : Addr) (f : Frame) (k : Frame → Instr) :
    withFrame (framePacket sel a f) k = .ok (k f) := by
  have hlines : frameOfLines f.bytes.toList f.dlen.val = .ok f := dif_pos f.dlen.isLt
  unfold withFrame framePacket
  rw [hlines]

/-- A delivered frame is decoded by its format. -/
theorem decode_delivered {i : Instr} (h : decodeFrame a f = i) : decode (framePacket .frame a f) = .ok i :=
  (withFrame_framePacket .frame a f (decodeFrame a)).trans (congrArg Except.ok h)

/-- A flow-control frame is decoded by its status. -/
theorem decode_flow {fs : Nibble} {bs st : Byte} {t : Tail3} {i : Instr} (h : 1 ≤ n.val)
    (hi : decodeFlow a (frameFc fs bs st t n) = i) :
    decode (framePacket .frame a (frameFc fs bs st t n)) = .ok i :=
  decode_delivered ((decodeFrame_frameFc fs bs st t h).trans hi)

/-- A frame that can be delivered has a byte 0 (R90). -/
theorem dlen_pos {b : Bool} {n : Fin 9} (h : (b && frameLenOk n) = true) : 1 ≤ n.val :=
  of_decide_eq_true (Bool.and_eq_true_iff.mp h).2

/-! ### A select code that is no command (R107) -/

theorem decode_command_of_ge {p : Packet} {c : BitVec 3} (hsel : p.sel = .command c) (hc : 5 ≤ c.toNat) :
    decode p = .error .noSuchCommand := by
  unfold decode
  rw [hsel]
  dsimp only
  split
  · omega
  · omega
  · omega
  · omega
  · omega
  · rfl

/-! ### What a delivered frame does (R171, R173, R177, R213) -/

/-- The command of the session that consumes a frame (R91). -/
def consumer (a : Addr) (f : Frame) : Instr := if decType f = some 3 then .txFc a f else .rxFrame a f

theorem consumer_flow (h : decType f = some 3) : consumer a f = .txFc a f := if_pos h

theorem consumer_other (h : decType f ≠ some 3) : consumer a f = .rxFrame a f := if_neg h

/-- A frame that is not flow control goes through the entry checks to the handler of its type. -/
theorem rxEnter_eq_consumer {k : State → Answer} {ty : Nat} (htype : decType f = some ty) (hty : ty ≠ 3)
    (hk : ∀ s, rxDispatch a f s = k s) : rxEnter a f (start s) k = exec (consumer a f) s := by
  rw [consumer_other (by simpa [htype] using hty), ← funext hk]
  rfl

/-- A flow-control frame goes through the validation to the handler of its status. -/
theorem txFcEnter_eq_consumer {k : State → Answer} (htype : decType f = some 3)
    (hk : ∀ s, txFcDispatch f s = k s) : txFcEnter f (start s) k = exec (consumer a f) s := by
  rw [consumer_flow htype, ← funext hk]
  rfl

/-- A delivered flow-control frame does what TX_FC does with it: its status selects the handler. -/
theorem exec_decodeFlow (fs : Nibble) (bs st : Byte) (t : Tail3) (h : 1 ≤ n.val) :
    exec (decodeFlow a (frameFc fs bs st t n)) s = exec (consumer a (frameFc fs bs st t n)) s := by
  have htype := decType_frameFc fs bs st t h
  have hstatus := decFcFs_frameFc fs bs st t h
  cases nibbleCode fs with
  | zero =>
    rw [decodeFlow_cts]
    exact txFcEnter_eq_consumer htype fun _ => txFcDispatch_continue hstatus
  | one =>
    rw [decodeFlow_wait]
    exact txFcEnter_eq_consumer htype fun _ => txFcDispatch_wait hstatus
  | two =>
    rw [decodeFlow_ovflw]
    exact txFcEnter_eq_consumer htype fun _ => txFcDispatch_overflow hstatus
  | three =>
    rw [decodeFlow_rsvd3]
    exact txFcEnter_eq_consumer htype fun _ => txFcDispatch_other hstatus (by decide)
  | from4to7 ss =>
    rw [decodeFlow_rsvd4to7]
    have hss := toNat_nibble4to7 ss
    exact txFcEnter_eq_consumer htype fun _ => txFcDispatch_other hstatus (by omega)
  | from8to15 ss =>
    rw [decodeFlow_rsvd8to15]
    have hss := toNat_nibble8to15 ss
    exact txFcEnter_eq_consumer htype fun _ => txFcDispatch_other hstatus (by omega)

/-- A delivered frame does what the command of its consumer does with it: its type selects the handler. -/
theorem exec_decodeFrame (hf : 1 ≤ f.dlen.val) : exec (decodeFrame a f) s = exec (consumer a f) s := by
  cases frameFormat f with
  | sf dl t n =>
    have htype := decType_frameWithTail1 (n := n) 0 dl t hf
    rw [decodeFrame_frameSf (n := n) dl t hf]
    exact rxEnter_eq_consumer htype (by decide) fun _ => rxDispatch_single htype
  | ff total t n =>
    have htype := decType_frameFf (n := n) total t hf
    rw [decodeFrame_frameFf (n := n) total t hf]
    exact rxEnter_eq_consumer htype (by decide) fun _ => rxDispatch_first htype
  | cf sn t n =>
    have htype := decType_frameWithTail1 (n := n) 2 sn t hf
    rw [decodeFrame_frameCf (n := n) sn t hf]
    exact rxEnter_eq_consumer htype (by decide) fun _ => rxDispatch_consecutive htype
  | fc fs bs st t n =>
    rw [decodeFrame_frameFc (n := n) fs bs st t hf]
    exact exec_decodeFlow fs bs st t hf
  | rsvd4to7 tt low t n =>
    have htype := decType_frameWithTail1 (n := n) (nibble4to7 tt) low t hf
    have htt := toNat_nibble4to7 tt
    rw [decodeFrame_rsvd4to7 (n := n) tt low t hf]
    exact rxEnter_eq_consumer htype (by omega) fun _ => rxDispatch_other htype (by omega)
  | rsvd8to15 tt low t n =>
    have htype := decType_frameWithTail1 (n := n) (nibble8to15 tt) low t hf
    have htt := toNat_nibble8to15 tt
    rw [decodeFrame_rsvd8to15 (n := n) tt low t hf]
    exact rxEnter_eq_consumer htype (by omega) fun _ => rxDispatch_other htype (by omega)

/-- In an open session a frame of an unrecognized type from the session's address is ignored (R177). -/
theorem rxEnter_otherType (hopen : s.rx.state ≠ .closed) (hf : 1 ≤ f.dlen.val) :
    rxEnter s.rx.srcAddr f (start s) (rxOtherType s.rx.srcAddr) = .next { s with
      out := { outcome := .rxIgnType, result := .message (ignoreMsg s.rx.srcAddr), events := [] } } :=
  (rxEnter_pass (s := start s) hopen (Nat.ne_of_gt hf) rfl).trans (rxIgnore_eq rfl)

/-! ### Fields that are not read (R98, R176, R213 to R216) -/

/-- The entry checks of RX_FRAME read `dlen` of the frame only. -/
theorem rxEnter_congr {g : Frame} (k : State → Answer) (h : f.dlen = g.dlen) :
    rxEnter a f s k = rxEnter a g s k := by
  simp only [rxEnter, h]

/-- The validation of TX_FC reads `dlen` and the type of the frame only. -/
theorem txFcEnter_congr {g : Frame} (k : State → Answer) (hlen : f.dlen = g.dlen)
    (htype : decType f = decType g) : txFcEnter f s k = txFcEnter g s k := by
  simp only [txFcEnter, hlen, htype]

/-- Neither parameter byte of a flow-control frame is read by the validation. -/
theorem txFcEnter_frameFc (fs : Nibble) (bs bs' st st' : Byte) (t : Tail3) (k : State → Answer) :
    txFcEnter (frameFc fs bs st t n) s k = txFcEnter (frameFc fs bs' st' t n) s k :=
  txFcEnter_congr k rfl rfl

/-- Continue reads the block size and not the separation time (R98). -/
theorem txFcContinue_frameFc (fs : Nibble) (bs st st' : Byte) (t : Tail3) :
    txFcContinue (frameFc fs bs st t n) = txFcContinue (frameFc fs bs st' t n) := by
  funext s
  simp only [txFcContinue, decFcBs_frameFc]

/-- A Consecutive frame's payload lies after its header byte, which is not read (R176). -/
theorem rxConsecutive_frameCf (sn sn' : Nibble) (t : Tail1) :
    rxConsecutive a (frameCf sn t n) = rxConsecutive a (frameCf sn' t n) := rfl

end Encoding

/-! ### The statements -/

/-- Settles O7: the frame on the lines comes back, and its nibbles select the instruction again. -/
theorem decodeOfEncodeIsTheInstruction : Obligations.DecodeOfEncodeIsTheInstruction := by
  intro p i h
  cases i with
  | sf a dl t n => exact decode_delivered (decodeFrame_frameSf dl t (dlen_pos h))
  | ff a total t n => exact decode_delivered (decodeFrame_frameFf total t (dlen_pos h))
  | cf a sn t n => exact decode_delivered (decodeFrame_frameCf sn t (dlen_pos h))
  | fcCts a bs st t n => exact decode_flow (dlen_pos h) (decodeFlow_cts bs st t)
  | fcWait a bs st t n => exact decode_flow (dlen_pos h) (decodeFlow_wait bs st t)
  | fcOvflw a bs st t n => exact decode_flow (dlen_pos h) (decodeFlow_ovflw bs st t)
  | fcRsvd3 a bs st t n => exact decode_flow (dlen_pos h) (decodeFlow_rsvd3 bs st t)
  | fcRsvd4to7 a ss bs st t n => exact decode_flow (dlen_pos h) (decodeFlow_rsvd4to7 bs st t ss)
  | fcRsvd8to15 a ss bs st t n => exact decode_flow (dlen_pos h) (decodeFlow_rsvd8to15 bs st t ss)
  | rsvdType4to7 a tt low t n => exact decode_delivered (decodeFrame_rsvd4to7 tt low t (dlen_pos h))
  | rsvdType8to15 a tt low t n => exact decode_delivered (decodeFrame_rsvd8to15 tt low t (dlen_pos h))
  | rxFrame a f | txFc a f => exact withFrame_framePacket _ a f _
  | decType f | decSfDl f | decFfDl f | decCfSn f | decFcFs f | decFcBs f | decFcSt f =>
    exact withFrame_framePacket _ 0 f _
  | rxOpen | txBegin | txContinue | encSf | encFf | encCf | encFc => rfl

/-- Settles O8: by the type of the frame, and for flow control by its status. -/
theorem deliveredFramesDoWhatTheirCommandDoes : Obligations.DeliveredFramesDoWhatTheirCommandDoes := by
  intro a f s hf
  rw [exec_decodeFrame hf]
  exact ⟨fun h => by rw [consumer_other h], fun h => by rw [consumer_flow h]⟩

/-- Settles O5: the decoder knows no command of that code, and what it rejects is refused. -/
theorem unissuedSelectCodesAreRefused : Obligations.UnissuedSelectCodesAreRefused := by
  intro s p rest c hin hsel hc
  rw [step_packet hin, stepPacket_error (decode_command_of_ge hsel hc)]

/-- Settles O6: each word is read off byte by byte. -/
theorem specFramesDecodeToTheirFields : Obligations.SpecFramesDecodeToTheirFields :=
  ⟨by decide, by decide, by decide, by decide, by decide, by decide, by decide, by decide⟩

/-- Settles O16: the entry checks pass, and the frame is ignored whatever its type was. -/
theorem unrecognizedTypesChangeNothing : Obligations.UnrecognizedTypesChangeNothing :=
  fun _ _ _ _ hopen hn => ⟨fun _ => rxEnter_otherType hopen hn, fun _ => rxEnter_otherType hopen hn⟩

/-- Settles O47: neither the checks on the frame nor the handler read the field. -/
theorem unreadFieldsChangeNothing : Obligations.UnreadFieldsChangeNothing := by
  intro s a a' f bs bs' st st' sn sn' tail tail1 n
  refine ⟨?_, ?_, ?_, ?_, rfl⟩
  · show txFcEnter _ _ _ = txFcEnter _ _ _
    rw [txFcContinue_frameFc 0 bs st st' tail]
    exact txFcEnter_frameFc ..
  · exact txFcEnter_frameFc ..
  · exact txFcEnter_frameFc ..
  · show rxEnter _ _ _ _ = rxEnter _ _ _ _
    rw [rxConsecutive_frameCf sn sn' tail1]
    exact rxEnter_congr _ rfl

end Sys2Proof.Machine

/-! ## Frame Codec (40_codec.md): the decode and encode functions as arithmetic, and their round trips -/

namespace Sys2Proof.Machine

section Codec

/-! ### Nibbles and the parts of FF_DL as numbers (R10, R99) -/

theorem toNat_hiNibble (b : Byte) : (hiNibble b).toNat = b.toNat / 16 := by
  revert b; decide

theorem toNat_loNibble (b : Byte) : (loNibble b).toNat = b.toNat % 16 := by
  revert b; decide

theorem toNat_ffDlHigh (total : BitVec 12) : (ffDlHigh total).toNat = total.toNat / 256 := by
  have := toNat_ffDl total
  have := (ffDlLow total).isLt
  omega

theorem toNat_ffDlLow (total : BitVec 12) : (ffDlLow total).toNat = total.toNat % 256 := by
  have := toNat_ffDl total
  have := (ffDlLow total).isLt
  omega

/-! ### Decoding a field, as arithmetic (R131 to R137) -/

variable {f : Frame}

theorem fieldAt_hiNibble (f : Frame) : fieldAt f 0 (hiNibble f.bytes.b0).toNat =
    if 1 ≤ f.dlen.val then some (f.bytes.b0.toNat / 16) else none := by
  rw [toNat_hiNibble]
  rfl

/-- DEC_SF_DL, DEC_CF_SN and DEC_FC_FS read the same nibble. -/
theorem fieldAt_loNibble (f : Frame) : fieldAt f 0 (loNibble f.bytes.b0).toNat =
    if 1 ≤ f.dlen.val then some (f.bytes.b0.toNat % 16) else none := by
  rw [toNat_loNibble]
  rfl

theorem decFfDl_eq_ite (f : Frame) : decFfDl f =
    if 2 ≤ f.dlen.val then some (256 * (f.bytes.b0.toNat % 16) + f.bytes.b1.toNat) else none := by
  rw [decFfDl, toNat_loNibble]
  rfl

/-- Where byte 1 is valid, FF_DL is its two parts joined (R99, R135). -/
theorem decFfDl_eq_joinFfDl (hf : 2 ≤ f.dlen.val) :
    decFfDl f = some (joinFfDl (loNibble f.bytes.b0) f.bytes.b1).toNat := by
  rw [toNat_joinFfDl]
  exact fieldAt_of_lt _ hf

theorem decCfSn_frameCf {n : Fin 9} (sn : Nibble) (t : Tail1) (h : 1 ≤ n.val) :
    decCfSn (frameCf sn t n) = some sn.toNat := by
  exact (fieldAt_of_lt _ h).trans (by simp [frameCf, frameWithTail1])

theorem decFcSt_frameFc {n : Fin 9} (fs : Nibble) (bs st : Byte) (t : Tail3) (h : 3 ≤ n.val) :
    decFcSt (frameFc fs bs st t n) = some st.toNat :=
  fieldAt_of_lt _ h

/-- A byte 0 whose type nibble decodes to `ty` is `ty` over its own low nibble (R64, R133). -/
theorem joinNibbles_of_decType (ty : Nibble) (hf : 1 ≤ f.dlen.val) (h : decType f = some ty.toNat) :
    joinNibbles ty (loNibble f.bytes.b0) = f.bytes.b0 := by
  have hty : (hiNibble f.bytes.b0).toNat = ty.toNat :=
    Option.some.inj ((fieldAt_of_lt _ hf).symm.trans h)
  rw [← BitVec.eq_of_toNat_eq hty, joinNibbles_split]

/-! ### Operands of the encode functions (R140)

An argument fits a field of `k` bits exactly if it is a value of that field, extended to 16 bits. The
encode functions are described by their values on such fields. -/

/-- A 16-bit argument that fits `k` bits comes from a field of that width. -/
theorem exists_field {k : Nat} (x : Half) (h : x.toNat < 2 ^ k) :
    ∃ v : BitVec k, v.zeroExtend 16 = x ∧ v.toNat = x.toNat := by
  have hv : (x.setWidth k).toNat = x.toNat := by rw [BitVec.toNat_setWidth, Nat.mod_eq_of_lt h]
  refine ⟨x.setWidth k, BitVec.eq_of_toNat_eq ?_, hv⟩
  rw [BitVec.zeroExtend, BitVec.toNat_setWidth, hv, Nat.mod_eq_of_lt x.isLt]

/-- A field of at most 16 bits keeps its value as an argument. -/
theorem toNat_zeroExtend_field {k : Nat} (hk : k ≤ 16) (v : BitVec k) :
    (v.zeroExtend 16 : Half).toNat = v.toNat :=
  BitVec.toNat_setWidth_of_le hk

/-- Bits of a field are the same bits of the argument it was extended to. -/
theorem extractLsb'_zeroExtend_field {k : Nat} (hk : k ≤ 16) (v : BitVec k) (i n : Nat) :
    (v.zeroExtend 16 : Half).extractLsb' i n = v.extractLsb' i n := by
  apply BitVec.eq_of_toNat_eq
  rw [BitVec.extractLsb'_toNat, BitVec.extractLsb'_toNat, toNat_zeroExtend_field hk]

theorem encSf_zeroExtend (dl : Nibble) : encSf (dl.zeroExtend 16) = .ok (header 0 dl 0 0) := by
  revert dl; decide

theorem encFf_zeroExtend (total : BitVec 12) :
    encFf (total.zeroExtend 16) = .ok (header 1 (ffDlHigh total) (ffDlLow total) 0) := by
  have hle : (total.zeroExtend 16 : Half).toNat ≤ 4095 := by
    rw [toNat_zeroExtend_field (by decide)]
    exact Nat.le_of_lt_succ total.isLt
  rw [encFf_of_le hle, extractLsb'_zeroExtend_field (by decide),
    extractLsb'_zeroExtend_field (by decide)]
  rfl

theorem encFc_zeroExtend (fs : Nibble) (bs st : Byte) :
    encFc (fs.zeroExtend 16) (bs.zeroExtend 16) (st.zeroExtend 16) = .ok (header 3 fs bs st) := by
  have := fs.isLt
  have := bs.isLt
  have := st.isLt
  rw [encFc, toNat_zeroExtend_field (by decide), toNat_zeroExtend_field (by decide),
    toNat_zeroExtend_field (by decide), if_neg (by omega)]
  simp [extractLsb'_zeroExtend_field]

/-! ### Encoding, as arithmetic (R141 to R144) -/

/-- A zeroed buffer with three header bytes given as numbers (R140). -/
def headerOfNat (b0 b1 b2 : Nat) : FrameBytes :=
  ⟨BitVec.ofNat 8 b0, BitVec.ofNat 8 b1, BitVec.ofNat 8 b2, 0, 0, 0, 0, 0⟩

theorem header_eq_headerOfNat (ty low : Nibble) (b1 b2 : Byte) :
    header ty low b1 b2 = headerOfNat (16 * ty.toNat + low.toNat) b1.toNat b2.toNat := by
  have hb0 := joinNibbles_ofNat ty low.isLt
  rw [BitVec.ofNat_toNat, BitVec.setWidth_eq] at hb0
  simp only [header, headerOfNat, hb0, BitVec.ofNat_toNat, BitVec.setWidth_eq]

theorem encSf_eq_ite (x : Half) :
    encSf x = if x.toNat ≤ 15 then .ok (headerOfNat x.toNat 0 0) else .encodeRange := by
  split
  next h =>
    obtain ⟨dl, rfl, hdl⟩ := exists_field (k := 4) x (by omega)
    rw [encSf_zeroExtend, header_eq_headerOfNat, ← hdl]
    simp
  next h => rw [encSf, if_pos (by omega)]

theorem encFf_eq_ite (x : Half) : encFf x =
    if x.toNat ≤ 4095 then .ok (headerOfNat (16 + x.toNat / 256) (x.toNat % 256) 0)
    else .encodeRange := by
  split
  next h =>
    obtain ⟨total, rfl, htotal⟩ := exists_field (k := 12) x (by omega)
    rw [encFf_zeroExtend, header_eq_headerOfNat, toNat_ffDlHigh, toNat_ffDlLow, ← htotal]
    rfl
  next h => rw [encFf, if_pos (by omega)]

theorem encCf_eq_ite (x : Half) :
    encCf x = if x.toNat ≤ 15 then .ok (headerOfNat (32 + x.toNat) 0 0) else .encodeRange := by
  split
  next h =>
    obtain ⟨sn, rfl, hsn⟩ := exists_field (k := 4) x (by omega)
    rw [encCf_zeroExtend, header_eq_headerOfNat, ← hsn]
    rfl
  next h => rw [encCf, if_pos (by omega)]

theorem encFc_eq_ite (x y z : Half) : encFc x y z =
    if x.toNat ≤ 15 ∧ y.toNat ≤ 255 ∧ z.toNat ≤ 255 then
      .ok (headerOfNat (48 + x.toNat) y.toNat z.toNat)
    else .encodeRange := by
  split
  next h =>
    obtain ⟨hx, hy, hz⟩ := h
    obtain ⟨fs, rfl, hfs⟩ := exists_field (k := 4) x (by omega)
    obtain ⟨bs, rfl, hbs⟩ := exists_field (k := 8) y (by omega)
    obtain ⟨st, rfl, hst⟩ := exists_field (k := 8) z (by omega)
    rw [encFc_zeroExtend, header_eq_headerOfNat, ← hfs, ← hbs, ← hst]
    rfl
  next h => rw [encFc, if_pos (by omega)]

/-- An encode function answers its result and nothing else (R130). -/
theorem answerEncoded_congr {s : State} {r r' : EncResult} (h : r = r') :
    (.next (done (.encoded r) (start s)) : Answer) = .next (done (.encoded r') (start s)) := by
  rw [h]

/-! ### Decoding what was encoded, and encoding what was decoded (R146) -/

theorem encSf_decoded {x : Half} (h : x.toNat ≤ 15) : ∃ F, encSf x = .ok F ∧
    decType ⟨F, 8⟩ = some 0 ∧ decSfDl ⟨F, 8⟩ = some x.toNat := by
  obtain ⟨dl, rfl, hdl⟩ := exists_field (k := 4) x (by omega)
  rw [← hdl]
  exact ⟨_, encSf_zeroExtend dl, decType_frameWithTail1 0 dl ⟨0, 0, 0, 0, 0, 0, 0⟩ (by decide),
    decSfDl_frameSf dl ⟨0, 0, 0, 0, 0, 0, 0⟩ (by decide)⟩

theorem encFf_decoded {x : Half} (h : x.toNat ≤ 4095) : ∃ F, encFf x = .ok F ∧
    decType ⟨F, 8⟩ = some 1 ∧ decFfDl ⟨F, 8⟩ = some x.toNat := by
  obtain ⟨total, rfl, htotal⟩ := exists_field (k := 12) x (by omega)
  rw [← htotal]
  exact ⟨_, encFf_zeroExtend total, decType_frameFf total ⟨0, 0, 0, 0, 0, 0⟩ (by decide),
    decFfDl_frameFf total ⟨0, 0, 0, 0, 0, 0⟩⟩

theorem encCf_decoded {x : Half} (h : x.toNat ≤ 15) : ∃ F, encCf x = .ok F ∧
    decType ⟨F, 8⟩ = some 2 ∧ decCfSn ⟨F, 8⟩ = some x.toNat := by
  obtain ⟨sn, rfl, hsn⟩ := exists_field (k := 4) x (by omega)
  rw [← hsn]
  exact ⟨_, encCf_zeroExtend sn, decType_frameWithTail1 2 sn ⟨0, 0, 0, 0, 0, 0, 0⟩ (by decide),
    decCfSn_frameCf sn ⟨0, 0, 0, 0, 0, 0, 0⟩ (by decide)⟩

theorem encFc_decoded {x y z : Half} (hx : x.toNat ≤ 15) (hy : y.toNat ≤ 255) (hz : z.toNat ≤ 255) :
    ∃ F, encFc x y z = .ok F ∧ decType ⟨F, 8⟩ = some 3 ∧ decFcFs ⟨F, 8⟩ = some x.toNat ∧
      decFcBs ⟨F, 8⟩ = some y.toNat ∧ decFcSt ⟨F, 8⟩ = some z.toNat := by
  obtain ⟨fs, rfl, hfs⟩ := exists_field (k := 4) x (by omega)
  obtain ⟨bs, rfl, hbs⟩ := exists_field (k := 8) y (by omega)
  obtain ⟨st, rfl, hst⟩ := exists_field (k := 8) z (by omega)
  rw [← hfs, ← hbs, ← hst]
  exact ⟨_, encFc_zeroExtend fs bs st, decType_frameFc fs bs st ⟨0, 0, 0, 0, 0⟩ (by decide),
    decFcFs_frameFc fs bs st ⟨0, 0, 0, 0, 0⟩ (by decide),
    decFcBs_frameFc fs bs st ⟨0, 0, 0, 0, 0⟩, decFcSt_frameFc fs bs st ⟨0, 0, 0, 0, 0⟩ (by decide)⟩

theorem decSfDl_encoded (hf : 1 ≤ f.dlen.val) (htype : decType f = some 0) :
    ∃ dl F, decSfDl f = some dl ∧ encSf (BitVec.ofNat 16 dl) = .ok F ∧ F.b0 = f.bytes.b0 := by
  refine ⟨_, header 0 (loNibble f.bytes.b0) 0 0, fieldAt_of_lt _ hf, ?_,
    joinNibbles_of_decType 0 hf htype⟩
  rw [BitVec.ofNat_toNat]
  exact encSf_zeroExtend _

theorem decFfDl_encoded (hf : 2 ≤ f.dlen.val) (htype : decType f = some 1) :
    ∃ total F, decFfDl f = some total ∧ encFf (BitVec.ofNat 16 total) = .ok F ∧
      F.b0 = f.bytes.b0 ∧ F.b1 = f.bytes.b1 := by
  refine ⟨_, header 1 (loNibble f.bytes.b0) f.bytes.b1 0, decFfDl_eq_joinFfDl hf, ?_,
    joinNibbles_of_decType 1 (by omega) htype, rfl⟩
  rw [BitVec.ofNat_toNat]
  simpa using encFf_zeroExtend (joinFfDl (loNibble f.bytes.b0) f.bytes.b1)

theorem decCfSn_encoded (hf : 1 ≤ f.dlen.val) (htype : decType f = some 2) :
    ∃ sn F, decCfSn f = some sn ∧ encCf (BitVec.ofNat 16 sn) = .ok F ∧ F.b0 = f.bytes.b0 := by
  refine ⟨_, header 2 (loNibble f.bytes.b0) 0 0, fieldAt_of_lt _ hf, ?_,
    joinNibbles_of_decType 2 hf htype⟩
  rw [BitVec.ofNat_toNat]
  exact encCf_zeroExtend _

theorem decFc_encoded (hf : 3 ≤ f.dlen.val) (htype : decType f = some 3) :
    ∃ fs bs st F, decFcFs f = some fs ∧ decFcBs f = some bs ∧ decFcSt f = some st ∧
      encFc (BitVec.ofNat 16 fs) (BitVec.ofNat 16 bs) (BitVec.ofNat 16 st) = .ok F ∧
      F.b0 = f.bytes.b0 ∧ F.b1 = f.bytes.b1 ∧ F.b2 = f.bytes.b2 := by
  refine ⟨_, _, _, header 3 (loNibble f.bytes.b0) f.bytes.b1 f.bytes.b2, fieldAt_of_lt _ (by omega),
    fieldAt_of_lt _ (by omega), fieldAt_of_lt _ hf, ?_, joinNibbles_of_decType 3 (by omega) htype, rfl, rfl⟩
  rw [BitVec.ofNat_toNat, BitVec.ofNat_toNat, BitVec.ofNat_toNat]
  exact encFc_zeroExtend _ _ _

end Codec

/-! ### The statements -/

/-- Settles O29: the answer carries the field, which is arithmetic on the valid bytes. -/
theorem decodersReadTheirField : Obligations.DecodersReadTheirField := fun _ f =>
  ⟨answerField_congr (fieldAt_hiNibble f), answerField_congr (fieldAt_loNibble f),
    answerField_congr (decFfDl_eq_ite f), answerField_congr (fieldAt_loNibble f),
    answerField_congr (fieldAt_loNibble f), rfl, rfl⟩

/-- Settles O30: the answer carries the header of the fields, or the range error. -/
theorem encodersBuildTheirHeader : Obligations.EncodersBuildTheirHeader := fun _ x y z =>
  ⟨answerEncoded_congr (encSf_eq_ite x), answerEncoded_congr (encFf_eq_ite x),
    answerEncoded_congr (encCf_eq_ite x), answerEncoded_congr (encFc_eq_ite x y z)⟩

/-- Settles O31: one law for each type and direction. -/
theorem codecRoundTrips : Obligations.CodecRoundTrips :=
  ⟨fun _ => encSf_decoded, fun _ => encFf_decoded, fun _ => encCf_decoded,
    fun _ _ _ => encFc_decoded,
    fun _ hf => ⟨decSfDl_encoded (by omega), decFfDl_encoded (by omega), decCfSn_encoded (by omega),
      decFc_encoded hf⟩⟩

end Sys2Proof.Machine

/-! ## Receive Session (41_receive.md): the entry checks, the handlers, the notification -/

namespace Sys2Proof.Machine

section Receive

variable {a : Addr} {f : Frame} {s t : State} {n : Fin 9}

/-! ### A frame that passes the entry checks (R171, R173) -/

theorem decType_frameSf (dl : Nibble) (tl : Tail1) (hn : 1 ≤ n.val) : decType (frameSf dl tl n) = some 0 :=
  decType_frameWithTail1 0 dl tl hn

theorem decType_frameCf (sn : Nibble) (tl : Tail1) (hn : 1 ≤ n.val) : decType (frameCf sn tl n) = some 2 :=
  decType_frameWithTail1 2 sn tl hn

/-- A frame from the session's address, with a byte 0, passes the checks of an open session. -/
theorem rxEnter_start {k : State → Answer} (hopen : s.rx.state ≠ .closed) (hf : 1 ≤ f.dlen.val) :
    rxEnter s.rx.srcAddr f (start s) k = k (start s) :=
  rxEnter_pass (s := start s) hopen (Nat.ne_of_gt hf) rfl

theorem exec_rxFrame_eq_dispatch (hopen : s.rx.state ≠ .closed) (hf : 1 ≤ f.dlen.val) :
    exec (.rxFrame s.rx.srcAddr f) s = rxDispatch s.rx.srcAddr f (start s) := rxEnter_start hopen hf

theorem exec_rxFrame_single (hopen : s.rx.state ≠ .closed) (hf : 1 ≤ f.dlen.val)
    (htype : decType f = some 0) :
    exec (.rxFrame s.rx.srcAddr f) s = rxSingle s.rx.srcAddr f (start s) :=
  (exec_rxFrame_eq_dispatch hopen hf).trans (rxDispatch_single htype)

theorem exec_rxFrame_first (hopen : s.rx.state ≠ .closed) (hf : 1 ≤ f.dlen.val)
    (htype : decType f = some 1) :
    exec (.rxFrame s.rx.srcAddr f) s = rxFirst s.rx.srcAddr f (start s) :=
  (exec_rxFrame_eq_dispatch hopen hf).trans (rxDispatch_first htype)

theorem exec_rxFrame_consecutive (hopen : s.rx.state ≠ .closed) (hf : 1 ≤ f.dlen.val)
    (htype : decType f = some 2) :
    exec (.rxFrame s.rx.srcAddr f) s = rxConsecutive s.rx.srcAddr f (start s) :=
  (exec_rxFrame_eq_dispatch hopen hf).trans (rxDispatch_consecutive htype)

/-! A frame delivered as such reaches the same handler, so the handler's answer settles both. -/

theorem presented_single {dl : Nibble} {tl : Tail1} (hopen : s.rx.state ≠ .closed) (hn : 1 ≤ n.val)
    (h : rxSingle s.rx.srcAddr (frameSf dl tl n) (start s) = .next t) :
    exec (.sf s.rx.srcAddr dl tl n) s = .next t ∧
      exec (.rxFrame s.rx.srcAddr (frameSf dl tl n)) s = .next t :=
  ⟨(rxEnter_start (f := frameSf dl tl n) hopen hn).trans h,
    (exec_rxFrame_single hopen hn (decType_frameSf dl tl hn)).trans h⟩

theorem presented_first {total : BitVec 12} {tl : Tail2} (hopen : s.rx.state ≠ .closed) (hn : 1 ≤ n.val)
    (h : rxFirst s.rx.srcAddr (frameFf total tl n) (start s) = .next t) :
    exec (.ff s.rx.srcAddr total tl n) s = .next t ∧
      exec (.rxFrame s.rx.srcAddr (frameFf total tl n)) s = .next t :=
  ⟨(rxEnter_start (f := frameFf total tl n) hopen hn).trans h,
    (exec_rxFrame_first hopen hn (decType_frameFf total tl hn)).trans h⟩

theorem presented_consecutive {sn : Nibble} {tl : Tail1} (hopen : s.rx.state ≠ .closed) (hn : 1 ≤ n.val)
    (h : rxConsecutive s.rx.srcAddr (frameCf sn tl n) (start s) = .next t) :
    exec (.cf s.rx.srcAddr sn tl n) s = .next t ∧
      exec (.rxFrame s.rx.srcAddr (frameCf sn tl n)) s = .next t :=
  ⟨(rxEnter_start (f := frameCf sn tl n) hopen hn).trans h,
    (exec_rxFrame_consecutive hopen hn (decType_frameCf sn tl hn)).trans h⟩

/-- A session in AWAIT_FF or REASSEMBLING is open. -/
theorem ne_closed_of_awaitFf (h : s.rx.state = .awaitFf) : s.rx.state ≠ .closed := by simp [h]
theorem ne_closed_of_reassembling (h : s.rx.state = .reassembling) : s.rx.state ≠ .closed := by simp [h]

/-- What an ignored frame leaves (R172). -/
def ignored (o : OutcomeName) (a : Addr) (s : State) : State :=
  { s with out := { outcome := o, result := .message (ignoreMsg a), events := [] } }

theorem rxIgnore_start {o : OutcomeName} (h : o.logged = false) :
    rxIgnore o a (start s) = .next (ignored o a s) := rxIgnore_eq h

/-! ### The entry checks, in their order (R171) -/

section Entry

variable {k : State → Answer}

theorem rxEnter_closed (h : s.rx.state = .closed) :
    rxEnter a f (start s) k = .next (ignored .rxIgnClosed a s) :=
  (if_pos h).trans (rxIgnore_start rfl)

theorem rxEnter_empty (hopen : s.rx.state ≠ .closed) (h : f.dlen = 0) :
    rxEnter a f (start s) k = .next (ignored .rxIgnEmpty a s) :=
  (if_neg hopen).trans ((if_pos (congrArg Fin.val h)).trans (rxIgnore_start rfl))

theorem rxEnter_otherAddr (hopen : s.rx.state ≠ .closed) (hlen : f.dlen ≠ 0) (h : a ≠ s.rx.srcAddr) :
    rxEnter a f (start s) k = .next (ignored .rxIgnAddr a s) :=
  (if_neg hopen).trans ((if_neg (Fin.val_ne_of_ne hlen)).trans ((if_pos h).trans (rxIgnore_start rfl)))

end Entry

/-! ### Gating by state (R178) -/

theorem rxSingle_of_ne_awaitFf (h : s.rx.state ≠ .awaitFf) :
    rxSingle a f (start s) = .next (ignored .rxIgnState a s) :=
  (if_pos h).trans (rxIgnore_start rfl)

theorem rxFirst_of_ne_awaitFf (h : s.rx.state ≠ .awaitFf) :
    rxFirst a f (start s) = .next (ignored .rxIgnState a s) :=
  (if_pos h).trans (rxIgnore_start rfl)

theorem rxConsecutive_of_ne_reassembling (h : s.rx.state ≠ .reassembling) :
    rxConsecutive a f (start s) = .next (ignored .rxIgnState a s) :=
  (if_pos h).trans (rxIgnore_start rfl)

/-! ### Runs of frame bytes -/

/-- A run of existing bytes of a frame, read beyond its end as 0x00. -/
theorem getD_frame_read {i len : Nat} (h : i + len ≤ 8) (k : Nat) :
    (bytesRead f.bytes.toList i len).getD k 0 = if k < len then frameByte f (i + k) else 0 := by
  rw [List.getD_eq_getElem?_getD]
  split_ifs with hk
  · rw [getElem?_frame_read hk (by omega), Option.getD_some]
  · rw [List.getElem?_eq_none (by rw [length_frame_read _ h]; omega), Option.getD_none]

/-- A run that is the whole list. -/
theorem bytesRead_all {l : List Byte} {len : Nat} (h : l.length = len) : bytesRead l 0 len = l := by
  simp [bytesRead, ← h]

/-! ### Single frame (R174) -/

section Single

variable {dl : Nat}

theorem rxSingle_malformed (hst : s.rx.state = .awaitFf) (hdl : decSfDl f = some dl)
    (h : 7 < dl ∨ f.dlen.val - 1 < dl) : rxSingle a f (start s) = .next (ignored .rxIgnMalformed a s) := by
  simp only [rxSingle, start_rx, hst, hdl, Config.sfMax, ne_eq, not_true_eq_false, if_false]
  exact (if_pos h).trans (rxIgnore_start rfl)

theorem rxSingle_complete (hst : s.rx.state = .awaitFf) (hdl : decSfDl f = some dl)
    (h7 : dl ≤ 7) (hlen : dl ≤ f.dlen.val - 1) :
    rxSingle a f (start s) = .next { s with
      rx := { s.rx with state := .complete, msg := singleMsg a f dl }
      out := { outcome := .ok
               result := .message (singleMsg a f dl)
               events := [.notifyRxComplete (singleMsg a f dl)] } } := by
  have h : ¬ (7 < dl ∨ f.dlen.val - 1 < dl) := by omega
  simp only [rxSingle, start_rx, hst, hdl, Config.sfMax, ne_eq, not_true_eq_false, if_false]
  exact if_neg h

/-- The Message of a Single frame (R40, R174). -/
theorem length_singleMsg (h7 : dl ≤ 7) : (singleMsg a f dl).length.toNat = dl := by
  have hlen : (bytesRead f.bytes.toList 1 dl).length = dl := length_frame_read _ (by omega)
  have h16 : (bytesRead f.bytes.toList 1 dl).length ≤ 65535 := by omega
  exact (toNat_toLen h16).trans hlen

theorem get_singleMsg (h7 : dl ≤ 7) (k : Nat) :
    Memory.get (singleMsg a f dl).payload k = if k < dl then frameByte f (1 + k) else 0 :=
  (get_completeMsg a _ false k).trans (getD_frame_read (by omega) k)

end Single

/-! ### First frame (R175) -/

section First

variable {total : Nat}

theorem rxFirst_malformed (hst : s.rx.state = .awaitFf) (hdl : decFfDl f = none) :
    rxFirst a f (start s) = .next (ignored .rxIgnMalformed a s) := by
  simp only [rxFirst, start_rx, hst, hdl, ne_eq, not_true_eq_false, if_false]
  exact rxIgnore_start rfl

/-- The length is checked before any allocation. -/
theorem rxFirst_tooLong (hst : s.rx.state = .awaitFf) (hdl : decFfDl f = some total)
    (h : s.par.maxMsg < total) : rxFirst a f (start s) = .next { s with
      out := { outcome := .rxRejTooLong
               result := .message (ignoreMsg a)
               events := logEvents s .rxRejTooLong } } := by
  simp only [rxFirst, start_rx, start_par, hst, hdl, ne_eq, not_true_eq_false, if_false, if_pos h, raise_eq]
  rfl

theorem rxFirst_refused (hst : s.rx.state = .awaitFf) (hdl : decFfDl f = some total)
    (h : total ≤ s.par.maxMsg) (hans : nextAnswer s = false) : rxFirst a f (start s) = .next { s with
      answers := s.answers.tail
      asked := s.asked + 1
      out := { outcome := .rxRejAlloc
               result := .message (ignoreMsg a)
               events := .alloc total :: logEvents s .rxRejAlloc } } := by
  simp only [rxFirst, start_rx, start_par, nextAnswer_start, hst, hdl, hans, ne_eq, not_true_eq_false,
    if_false, if_neg (Nat.not_lt.mpr h), Bool.false_eq_true, raise_eq]
  rfl

/-- The flow-control frame's answer is consumed and changes nothing else (D13). -/
theorem rxFirst_accepted (hst : s.rx.state = .awaitFf) (hdl : decFfDl f = some total)
    (h : total ≤ s.par.maxMsg) (hans : nextAnswer s = true) : rxFirst a f (start s) = .next { s with
      rx := { s.rx with
        state := .reassembling
        expected := toLen total
        received := toLen (ffCount f total)
        buf := some (ffBuffer s.asked f total) }
      answers := s.answers.tail.tail
      asked := s.asked + 2
      out := { outcome := .ok
               result := .message (partialMsg a)
               events := [.alloc total, xmitEvent s.rx.replyAddr grantFrame 3 s] } } := by
  simp only [rxFirst, start_rx, start_par, nextAnswer_start, hst, hdl, hans, ne_eq, not_true_eq_false,
    if_false, if_neg (Nat.not_lt.mpr h), if_true, rxAcceptFirst_eq]
  rfl

/-- The used bytes of the flow-control frame that grants continuation (R175). -/
theorem xmitEvent_grantFrame : xmitEvent a grantFrame 3 s = wireEvent s a [0x30, 0, 0] := by
  rw [grantFrame_eq]
  exact xmitEvent_eq (u := [0x30, 0, 0]) rfl rfl

/-- The First frame's bytes open the buffer. -/
theorem getElem?_ffBuffer {j k : Nat} (hk : k < ffCount f total) :
    (ffBuffer j f total)[k]? = some (frameByte f (2 + k)) := by
  have hf : f.dlen.val ≤ 8 := Nat.le_of_lt_succ f.dlen.isLt
  have hcount : ffCount f total ≤ f.dlen.val - 2 := Nat.min_le_left _ _
  have htotal : ffCount f total ≤ total := Nat.min_le_right _ _
  have h := getElem?_bytesWrite_inside (l := freshBuffer j total) (i := 0)
    (v := bytesRead f.bytes.toList 2 (ffCount f total)) (k := k)
    (by rw [length_frame_read _ (by omega)]; exact hk) (by rw [length_freshBuffer]; omega)
  rw [Nat.zero_add, getElem?_frame_read hk (by omega)] at h
  exact h

end First

/-! ### Consecutive frame (R176) -/

/-- The session reassembles into the live buffer `b`, and no more has been received than is expected. -/
structure Reassembles (s : State) (b : List Byte) : Prop where
  state : s.rx.state = .reassembling
  buf : s.rx.buf = some b
  length : b.length = s.rx.expected.toNat
  received : s.rx.received.toNat ≤ s.rx.expected.toNat

/-- The buffer once the bytes of a Consecutive frame are copied into it. -/
def appended (f : Frame) (s : State) (b : List Byte) : List Byte :=
  bytesWrite b s.rx.received.toNat (bytesRead f.bytes.toList 1 (cfCount f s))

section Consecutive

variable {b : List Byte}

@[simp] theorem length_appended : (appended f s b).length = b.length := length_bytesWrite _ _ _

@[simp] theorem cfCount_start : cfCount f (start s) = cfCount f s := rfl

theorem cfCount_le_missing : cfCount f s ≤ rxMissing s := Nat.min_le_right _ _

/-- A frame contributes at most 7 bytes. -/
theorem cfCount_le_seven : cfCount f s ≤ 7 :=
  (Nat.min_le_left _ _).trans (Nat.sub_le_sub_right (Nat.le_of_lt_succ f.dlen.isLt) 1)

theorem Reassembles.received_add_missing (h : Reassembles s b) :
    s.rx.received.toNat + rxMissing s = b.length := by
  rw [h.length, rxMissing]
  exact Nat.add_sub_of_le h.received

/-- The bytes of a Consecutive frame stand after those received before; the others are untouched. -/
theorem Reassembles.getElem?_appended (h : Reassembles s b) (k : Nat) :
    (appended f s b)[k]? =
      if s.rx.received.toNat ≤ k ∧ k < s.rx.received.toNat + cfCount f s then
        some (frameByte f (1 + (k - s.rx.received.toNat)))
      else b[k]? := by
  have h7 : cfCount f s ≤ 7 := cfCount_le_seven
  have hmiss : cfCount f s ≤ rxMissing s := cfCount_le_missing
  have hlen := h.received_add_missing
  have hrun : (bytesRead f.bytes.toList 1 (cfCount f s)).length = cfCount f s :=
    length_frame_read _ (by omega)
  split_ifs with hk
  · obtain ⟨j, rfl⟩ := Nat.exists_eq_add_of_le hk.1
    rw [Nat.add_sub_cancel_left, ← getElem?_frame_read (n := cfCount f s) (by omega) (by omega)]
    exact getElem?_bytesWrite_inside (by omega) (by omega)
  · exact getElem?_bytesWrite_outside (by omega)

/-- The buffer is full exactly when the frame brings all that was missing. -/
theorem Reassembles.received_add_eq_iff (h : Reassembles s b) :
    s.rx.received.toNat + cfCount f s = s.rx.expected.toNat ↔ cfCount f s = rxMissing s := by
  have := h.received_add_missing
  have := h.length
  omega

/-- The Message delivered from a full buffer has the expected length (R40). -/
theorem Reassembles.length_completeMsg (h : Reassembles s b) :
    (completeMsg a (appended f s b) true).length = s.rx.expected := by
  show toLen (appended f s b).length = s.rx.expected
  rw [length_appended, h.length, toLen_toNat]

/-- The frame fills the buffer: the message is delivered. -/
theorem Reassembles.rxConsecutive_full (h : Reassembles s b) (hfull : cfCount f s = rxMissing s) :
    rxConsecutive a f (start s) = .next { s with
      rx := { s.rx with
        state := .complete
        received := s.rx.expected
        buf := none
        msg := completeMsg a (appended f s b) true }
      out := { outcome := .ok
               result := .message (completeMsg a (appended f s b) true)
               events := [.free, .notifyRxComplete (completeMsg a (appended f s b) true)] } } := by
  have hsum : s.rx.received.toNat + cfCount f s = s.rx.expected.toNat := h.received_add_eq_iff.mpr hfull
  have hall : bytesRead (appended f s b) 0 s.rx.expected.toNat = appended f s b :=
    bytesRead_all (length_appended.trans h.length)
  rw [rxConsecutive_eq (s := start s) h.state h.buf h.length.ge]
  refine congrArg Host.Outcome.next ((if_pos hsum).trans ?_)
  unfold appended at hall ⊢
  simp only [start_rx, cfCount_start, hsum, hall, toLen_toNat]
  rfl

/-- The final frame fell short: the transfer fails. -/
theorem Reassembles.rxConsecutive_short (h : Reassembles s b) (hshort : cfCount f s ≠ rxMissing s)
    (h7 : rxMissing s ≤ 7) : rxConsecutive a f (start s) = .next { s with
      rx := { s.rx with
        state := .failed
        received := toLen (s.rx.received.toNat + cfCount f s)
        buf := none }
      out := { outcome := .rxFailReassembly
               result := .message (partialMsg a)
               events := .free :: logEvents s .rxFailReassembly } } := by
  rw [rxConsecutive_eq (s := start s) h.state h.buf h.length.ge]
  exact congrArg Host.Outcome.next
    ((if_neg (mt h.received_add_eq_iff.mp hshort)).trans (if_pos h7))

/-- More is missing than one frame holds: the transfer goes on. -/
theorem Reassembles.rxConsecutive_more (h : Reassembles s b) (h7 : 7 < rxMissing s) :
    rxConsecutive a f (start s) = .next { s with
      rx := { s.rx with
        received := toLen (s.rx.received.toNat + cfCount f s)
        buf := some (appended f s b) }
      out := { outcome := .ok, result := .message (partialMsg a), events := [] } } := by
  have hshort : cfCount f s ≠ rxMissing s := (cfCount_le_seven.trans_lt h7).ne
  rw [rxConsecutive_eq (s := start s) h.state h.buf h.length.ge]
  exact congrArg Host.Outcome.next
    ((if_neg (mt h.received_add_eq_iff.mp hshort)).trans (if_neg (Nat.not_le.mpr h7)))

end Consecutive

/-! ### Notification (R179, R255) -/

section Notification

variable {i : Instr}

/-- The step notifies exactly if it makes the session COMPLETE, of the Message it leaves and answers. -/
def NotifiesOnCompletion (s t : State) : Prop := ∀ m : Message,
  (.notifyRxComplete m ∈ t.out.events ↔
    s.rx.state ≠ .complete ∧ t.rx.state = .complete ∧ m = t.rx.msg) ∧
  (.notifyRxComplete m ∈ t.out.events → t.out.result = .message m ∧ m.isComplete = true)

/-- A step that emits no such notification and does not make the session COMPLETE. -/
theorem notifies_of_silent (hev : ∀ m, .notifyRxComplete m ∉ t.out.events)
    (hst : t.rx.state = .complete → s.rx.state = .complete) : NotifiesOnCompletion s t :=
  fun m => ⟨⟨fun h => absurd h (hev m), fun ⟨hs, ht, _⟩ => absurd (hst ht) hs⟩,
    fun h => absurd h (hev m)⟩

/-- A step that makes the session COMPLETE with a complete Message. -/
theorem notifies_of_completes {v : List Byte} {multi : Bool} (hs : s.rx.state ≠ .complete)
    (ht : t.rx.state = .complete) (hmsg : t.rx.msg = completeMsg a v multi)
    (hev : ∀ m, .notifyRxComplete m ∈ t.out.events ↔ m = t.rx.msg)
    (hres : t.out.result = .message t.rx.msg) : NotifiesOnCompletion s t := by
  refine fun m => ⟨(hev m).trans ⟨fun h => ⟨hs, ht, h⟩, fun h => h.2.2⟩, fun h => ?_⟩
  obtain rfl := (hev m).mp h
  exact ⟨hres, by rw [hmsg]; rfl⟩

theorem notifyRxComplete_notMem_logEvents {o : OutcomeName} {m : Message} :
    .notifyRxComplete m ∉ logEvents s o := by
  unfold logEvents
  split <;> simp

theorem RxEffect.notifies (h : RxEffect i s t) : NotifiesOnCompletion s t := by
  cases h with
  | refused => exact notifies_of_silent (by simp [notifyRxComplete_notMem_logEvents]) id
  | single _ _ hst => exact notifies_of_completes (by simp [hst]) rfl rfl (by simp) rfl
  | accepted => exact notifies_of_silent (by simp [xmitEvent]) nofun
  | full _ _ hst => exact notifies_of_completes (by simp [hst]) rfl rfl (by simp) rfl
  | short => exact notifies_of_silent (by simp [notifyRxComplete_notMem_logEvents]) nofun
  | more => exact notifies_of_silent (by simp) id

theorem TxEffect.notifyRxComplete_notMem (h : TxEffect i s t) (m : Message) :
    .notifyRxComplete m ∉ t.out.events := by
  cases h with
  | granted | overflow | lost => simp [xmitEvent]
  | sent =>
    dsimp only
    split <;> simp [xmitEvent]

theorem BeginEffect.notifyRxComplete_notMem {d : List Byte} {len : Nat} (h : BeginEffect a d len s t)
    (m : Message) : .notifyRxComplete m ∉ t.out.events := by
  cases h <;> simp [xmitEvent]

theorem Effect.notifies (h : Effect i s t) : NotifiesOnCompletion s t := by
  cases h with
  | output o =>
    refine notifies_of_silent (fun m => ?_) id
    dsimp only
    split
    · exact notifyRxComplete_notMem_logEvents
    · exact List.not_mem_nil
  | opened =>
    refine notifies_of_silent (fun m => ?_) nofun
    dsimp only
    split <;> simp
  | rx _ _ h => exact h.notifies
  | tx _ _ h => exact notifies_of_silent h.notifyRxComplete_notMem (h.rx_eq ▸ id)
  | begin _ _ _ _ _ h => exact notifies_of_silent h.notifyRxComplete_notMem (h.rx_eq ▸ id)

end Notification

end Receive

/-! ### The statements -/

/-- Settles O12: both presentations reach the Single-frame handler, which ignores the frame or completes. -/
theorem singleFrameCompletesInOneStep : Obligations.SingleFrameCompletesInOneStep := by
  intro s dl tl n hst hn f a
  have hopen := ne_closed_of_awaitFf hst
  have hdl : decSfDl f = some dl.toNat := decSfDl_frameSf dl tl hn
  refine ⟨fun hbad => presented_single hopen hn (rxSingle_malformed hst hdl hbad), fun h7 hlen => ?_⟩
  exact ⟨singleMsg a f dl.toNat, rfl, length_singleMsg h7, rfl, rfl, get_singleMsg h7,
    presented_single hopen hn (rxSingle_complete hst hdl h7 hlen)⟩

/-- Settles O13: both presentations reach the First-frame handler, which has these four exits. -/
theorem firstFrameOpensReassembly : Obligations.FirstFrameOpensReassembly := by
  intro s total tl n hst hn f a both
  have hopen := ne_closed_of_awaitFf hst
  have hdl : decFfDl f = if 2 ≤ n.val then some total.toNat else none := decFfDl_frameFf total tl
  refine ⟨fun h1 => ?_, fun h2 hlong => ?_, fun h2 hle hans => ?_, fun h2 hle hans => ?_⟩
  · exact presented_first hopen hn (rxFirst_malformed hst (hdl.trans (if_neg (by omega))))
  · exact presented_first hopen hn (rxFirst_tooLong hst (hdl.trans (if_pos h2)) hlong)
  · exact presented_first hopen hn (rxFirst_refused hst (hdl.trans (if_pos h2)) hle hans)
  · refine ⟨ffBuffer s.asked f total.toNat, length_ffBuffer _ _ _, fun _ hk => getElem?_ffBuffer (f := f) hk,
      presented_first hopen hn ?_⟩
    rw [← xmitEvent_grantFrame]
    exact rxFirst_accepted hst (hdl.trans (if_pos h2)) hle hans

/-- Settles O14: both presentations reach the Consecutive-frame handler, which has these three exits. -/
theorem consecutiveFrameAppendsItsBytes : Obligations.ConsecutiveFrameAppendsItsBytes := by
  intro s sn tl n b hst hbuf hlen hrcv hn f a both missing got
  have h : Reassembles s b := ⟨hst, hbuf, hlen, hrcv⟩
  have hopen := ne_closed_of_reassembling hst
  refine ⟨appended f s b, length_appended, h.getElem?_appended, fun hfull => ?_,
    fun hshort h7 => presented_consecutive hopen hn (h.rxConsecutive_short hshort h7),
    fun _ h7 => presented_consecutive hopen hn (h.rxConsecutive_more h7)⟩
  exact ⟨completeMsg a (appended f s b) true, rfl, h.length_completeMsg, rfl, rfl, get_completeMsg a _ true,
    presented_consecutive hopen hn (h.rxConsecutive_full hfull)⟩

/-- Settles O17: both presentations reach the handler, which checks the state before anything else. -/
theorem framesWithoutTransitionAreIgnored : Obligations.FramesWithoutTransitionAreIgnored :=
  fun _ hopen =>
    ⟨fun _ _ _ hn hst => presented_single hopen hn (rxSingle_of_ne_awaitFf hst),
      fun _ _ _ hn hst => presented_first hopen hn (rxFirst_of_ne_awaitFf hst),
      fun _ _ _ hn hst => presented_consecutive hopen hn (rxConsecutive_of_ne_reassembling hst)⟩

/-- Settles O43: the notification of each effect. -/
theorem receiverIsNotifiedExactlyOnCompletion : Obligations.ReceiverIsNotifiedExactlyOnCompletion :=
  fun _ _ _ m h => (exec_effect h).notifies m

/-- Settles O9: the same state in every case, with the `Free` of a live buffer. -/
theorem rxOpenConstructsAnIdleSession : Obligations.RxOpenConstructsAnIdleSession :=
  fun s a r => execRxOpen_eq a r s

/-- Settles O10: the three checks in their order; the Message is determined by its fields. -/
theorem rxFrameEntryChecksIgnore : Obligations.RxFrameEntryChecksIgnore := by
  rintro s a f ⟨_, _, _, _, _⟩ rfl rfl rfl rfl rfl
  exact ⟨rxEnter_closed, rxEnter_empty, rxEnter_otherAddr⟩

/-- Settles O11: both Messages are written out in the model, with the empty payload. -/
theorem incompleteMessagesCarryNothing : Obligations.IncompleteMessagesCarryNothing := fun _ =>
  ⟨rfl, rfl, rfl, rfl, fun _ => rfl, rfl, rfl, rfl, rfl, fun _ => rfl⟩

/-- Settles O15: a closed session ignores the frame at entry, an open one by its type. -/
theorem otherTypesAreIgnoredByReceive : Obligations.OtherTypesAreIgnoredByReceive := by
  intro s f hf hty
  by_cases hclosed : s.rx.state = .closed
  · rw [if_pos hclosed]
    exact rxEnter_closed hclosed
  · have htype : decType f = some (hiNibble f.bytes.b0).toNat := fieldAt_of_lt _ hf
    rw [if_neg hclosed, exec_rxFrame_eq_dispatch hclosed hf, rxDispatch_other htype hty]
    exact rxIgnore_start rfl

end Sys2Proof.Machine

/-! ## Two blocks (41_receive.md R180): what one transmits, fed to the other -/

namespace Sys2Proof.Machine

section Transfer

variable {a : Addr} {f : Frame} {s : State}

/-! ### A transmitted frame, as a frame that can be presented -/

/-- The `FRAME` whose bytes are listed. -/
def frameBytesOf (l : List Byte) : FrameBytes :=
  ⟨l.getD 0 0, l.getD 1 0, l.getD 2 0, l.getD 3 0, l.getD 4 0, l.getD 5 0, l.getD 6 0, l.getD 7 0⟩

theorem toList_frameBytesOf {l : List Byte} (h : l.length = 8) : (frameBytesOf l).toList = l := by
  match l, h with
  | [_, _, _, _, _, _, _, _], _ => rfl

/-- The frame with header `H` and payload `v` from byte `i` on, with the valid length `s` announces for it
(R251). -/
def sentFrame (s : State) (H : FrameBytes) (i : Nat) (v : List Byte) : Frame :=
  { bytes := frameBytesOf (withPayload H i v), dlen := Fin.ofNat 9 (xmitLen s (i + v.length)) }

/-- The event of a frame handed to the transport. -/
abbrev frameEvent (a : Addr) (f : Frame) (c : Ctx) : Event :=
  .xmit a (f.bytes.toList.take f.dlen.val) f.dlen.val c

section Sent

variable {H : FrameBytes} {i n : Nat} {v : List Byte}

@[simp] theorem toList_sentFrame : (sentFrame s H i v).bytes.toList = withPayload H i v :=
  toList_frameBytesOf (length_withPayload H i v)

theorem xmitLen_le (h : n ≤ 8) : xmitLen s n ≤ 8 := by
  unfold xmitLen Config.frameCap
  split <;> omega

theorem le_xmitLen (h : n ≤ 8) : n ≤ xmitLen s n := by
  unfold xmitLen Config.frameCap
  split <;> omega

theorem dlen_sentFrame (hv : v.length = n) (h : i + n ≤ 8) :
    (sentFrame s H i v).dlen.val = xmitLen s (i + n) := by
  subst hv
  exact Nat.mod_eq_of_lt (Nat.lt_succ_of_le (xmitLen_le h))

/-- The used bytes are valid. -/
theorem le_dlen_sentFrame (hv : v.length = n) (h : i + n ≤ 8) : i + n ≤ (sentFrame s H i v).dlen.val :=
  (le_xmitLen h).trans_eq (dlen_sentFrame hv h).symm

/-- What `Xmit` hands over is that frame (R250). -/
theorem xmitEvent_eq_frameEvent (hv : v.length = n) (h : i + n ≤ 8) :
    xmitEvent a (withPayload H i v) (i + n) s = frameEvent a (sentFrame s H i v) s.cfg.context := by
  simp only [xmitEvent, frameEvent, toList_sentFrame, dlen_sentFrame hv h]

/-- The payload reads back. -/
theorem bytesRead_sentFrame (hv : v.length = n) (h : i + n ≤ 8) :
    bytesRead (sentFrame s H i v).bytes.toList i n = v := by
  rw [toList_sentFrame]
  refine List.ext_getElem? fun k => ?_
  rcases Nat.lt_or_ge k n with hk | hk
  · rw [bytesRead, List.getElem?_take_of_lt hk, List.getElem?_drop]
    exact getElem?_bytesWrite_inside (by omega) (by rw [length_toList]; omega)
  · rw [List.getElem?_eq_none (by rw [length_bytesRead]; omega), List.getElem?_eq_none (hv.trans_le hk)]

/-- The header bytes before the payload are those of the header. -/
theorem b0_sentFrame : (sentFrame s H (i + 1) v).bytes.b0 = H.b0 := rfl
theorem b1_sentFrame : (sentFrame s H (i + 2) v).bytes.b1 = H.b1 := rfl

/-! Its fields (R131): the type and the low nibble of byte 0, and FF_DL. -/

variable {ty low : Nibble} {b1 b2 : Byte}

theorem decType_sentFrame (h : 1 ≤ (sentFrame s (header ty low b1 b2) (i + 1) v).dlen.val) :
    decType (sentFrame s (header ty low b1 b2) (i + 1) v) = some ty.toNat :=
  (fieldAt_of_lt _ h).trans (congrArg (some ·.toNat) (hiNibble_joinNibbles ty low))

/-- DEC_SF_DL and DEC_FC_FS read the low nibble. -/
theorem fieldAt_low_sentFrame (h : 1 ≤ (sentFrame s (header ty low b1 b2) (i + 1) v).dlen.val) :
    fieldAt (sentFrame s (header ty low b1 b2) (i + 1) v) 0
      (loNibble (sentFrame s (header ty low b1 b2) (i + 1) v).bytes.b0).toNat = some low.toNat :=
  (fieldAt_of_lt _ h).trans (congrArg (some ·.toNat) (loNibble_joinNibbles ty low))

theorem decFfDl_sentFrame {total : BitVec 12}
    (h : 2 ≤ (sentFrame s (header 1 (ffDlHigh total) (ffDlLow total) b2) (i + 2) v).dlen.val) :
    decFfDl (sentFrame s (header 1 (ffDlHigh total) (ffDlLow total) b2) (i + 2) v) =
      some total.toNat := by
  refine (fieldAt_of_lt _ h).trans (congrArg some ?_)
  rw [b0_sentFrame, b1_sentFrame, header, loNibble_joinNibbles, toNat_ffDl]

end Sent

/-! ### The sender's commands, when the transport accepts their frame (R210, R211, R219) -/

section Sender

variable {d : List Byte} {len : Nat}

/-- The next Consecutive frame of the transfer. -/
def cfFrame (s : State) : Frame :=
  sentFrame s (header 2 s.tx.seq 0 0) 1 (Memory.read s.tx.msg s.tx.offset.toNat (cfPayloadCount s))

/-- The state once that frame is accepted. -/
def cfSent (s : State) : State :=
  { s with
    tx := { s.tx with
      state := if s.tx.offset.toNat + cfPayloadCount s = s.tx.len.toNat then .complete else s.tx.state
      seq := s.tx.seq + 1
      offset := toLen (s.tx.offset.toNat + cfPayloadCount s)
      toSend := afterOneFrame s.tx.toSend }
    answers := s.answers.tail
    asked := s.asked + 1
    out :=
      { outcome := .ok
        result := .bool true
        events := frameEvent s.tx.addr (cfFrame s) s.cfg.context ::
          (if s.tx.offset.toNat + cfPayloadCount s = s.tx.len.toNat then [.notifyTxSent s.tx.addr true]
           else []) } }

theorem cfPayloadCount_le_seven : cfPayloadCount s ≤ 7 := Nat.min_le_left _ _

/-- The event of the next Consecutive frame. -/
theorem xmitEvent_cfFrame {F : List Byte} (h : nextCfBytes s = some F) :
    xmitEvent a F (1 + cfPayloadCount s) s = frameEvent a (cfFrame s) s.cfg.context := by
  have h7 := cfPayloadCount_le_seven (s := s)
  obtain rfl := Option.some.inj (nextCfBytes_eq.symm.trans h)
  exact xmitEvent_eq_frameEvent (Memory.length_read _ _ _) (by omega)

theorem exec_txContinue_accepted (hact : s.tx.state = .active) (hts : mayTransmit s.tx.toSend = true)
    (hmax : s.tx.offset.toNat + cfPayloadCount s ≤ s.par.maxMsg) (hans : nextAnswer s = true) :
    exec .txContinue s = .next (cfSent s) := by
  obtain ⟨F, hF, -, hpump⟩ := txPump_eq (s := start s)
  rw [xmitEvent_cfFrame hF, nextAnswer_start, if_pos hans] at hpump
  exact (execTxContinue_pump hact hts hmax).trans (congrArg Host.Outcome.next hpump)

/-- The First frame of a message of `len` bytes. -/
def firstFrame (a : Addr) (d : List Byte) (len : Nat) (s : State) : Frame :=
  sentFrame s (header 1 (ffDlHigh (BitVec.ofNat 12 len)) (ffDlLow (BitVec.ofNat 12 len)) 0) 2
    (Memory.read (begun a d len s).msg 0 6)

/-- The state once that frame is accepted. -/
def firstSent (a : Addr) (d : List Byte) (len : Nat) (s : State) : State :=
  { s with
    tx := { begun a d len s with state := .active, offset := 6 }
    answers := s.answers.tail
    asked := s.asked + 1
    out :=
      { outcome := .ok
        result := .flags false false
        events := [frameEvent a (firstFrame a d len s) s.cfg.context] } }

/-- A length that fits 12 bits, as a 16-bit argument of ENC_FF. -/
theorem toLen_eq_zeroExtend (h : len ≤ 4095) : toLen len = (BitVec.ofNat 12 len).zeroExtend 16 := by
  apply BitVec.eq_of_toNat_eq
  rw [toNat_zeroExtend_field (by decide), toNat_toLen (by omega), BitVec.toNat_ofNat,
    Nat.mod_eq_of_lt (by omega)]

theorem firstFrameBytes_begun (h : len ≤ 4095) :
    firstFrameBytes (txCapture a d len (start s)) =
      some (withPayload (header 1 (ffDlHigh (BitVec.ofNat 12 len)) (ffDlLow (BitVec.ofNat 12 len)) 0) 2
        (Memory.read (begun a d len s).msg 0 6)) := by
  have henc : encFf (txCapture a d len (start s)).tx.len =
      .ok (header 1 (ffDlHigh (BitVec.ofNat 12 len)) (ffDlLow (BitVec.ofNat 12 len)) 0) :=
    (congrArg encFf (toLen_eq_zeroExtend h)).trans (encFf_zeroExtend _)
  simp only [firstFrameBytes, henc]
  rfl

theorem exec_txBegin_first (h8 : 8 ≤ len) (h12 : len ≤ 4095) (hmax : len ≤ s.par.maxMsg)
    (hans : nextAnswer s = true) : exec (.txBegin a d len) s = .next (firstSent a d len s) := by
  have hmulti := txMulti_eq (firstFrameBytes_begun (a := a) (d := d) (s := s) h12)
  rw [if_pos (show nextAnswer (txCapture a d len (start s)) = true from hans)] at hmulti
  rw [firstSent, firstFrame,
    ← xmitEvent_eq_frameEvent (Memory.length_read _ _ _) le_rfl]
  exact (execTxBegin_long hmax h8).trans (congrArg Host.Outcome.next hmulti)

/-- The Single frame of a message of `len` bytes. -/
def singleFrame (a : Addr) (d : List Byte) (len : Nat) (s : State) : Frame :=
  sentFrame s (header 0 (BitVec.ofNat 4 len) 0 0) 1 (Memory.read (begun a d len s).msg 0 len)

/-- The state once that frame is accepted. -/
def singleSent (a : Addr) (d : List Byte) (len : Nat) (s : State) : State :=
  { s with
    tx := { begun a d len s with state := .complete, offset := toLen len }
    answers := s.answers.tail
    asked := s.asked + 1
    out :=
      { outcome := .ok
        result := .flags true true
        events := [frameEvent a (singleFrame a d len s) s.cfg.context, .notifyTxSent a true] } }

theorem exec_txBegin_single (h7 : len ≤ 7) (hmax : len ≤ s.par.maxMsg) (hans : nextAnswer s = true) :
    exec (.txBegin a d len) s = .next (singleSent a d len s) := by
  have hlen : (txCapture a d len (start s)).tx.len.toNat = len := toNat_toLen (by omega)
  obtain ⟨F, hF, -, hsingle⟩ := txSingle_eq (s := txCapture a d len (start s)) (hlen.trans_le h7)
  rw [singleFrameBytes_eq (hlen.trans_le h7), hlen] at hF
  obtain rfl := Option.some.inj hF
  have hA : nextAnswer (txCapture a d len (start s)) = true := hans
  rw [singleSent, singleFrame,
    ← xmitEvent_eq_frameEvent (Memory.length_read _ _ _) (by omega)]
  simp only [hA, hlen, if_true] at hsingle
  exact (execTxBegin_short hmax h7).trans (congrArg Host.Outcome.next hsingle)

/-- TX_FC with status Continue (R214). -/
theorem exec_txFc_continue {bs : Nat} (hact : s.tx.state = .active) (hlen : s.par.fcMinLen ≤ f.dlen.val)
    (htype : decType f = some 3) (hfs : decFcFs f = some 0) (hbs : decFcBs f = some bs) :
    exec (.txFc a f) s = .next { s with
      tx := { s.tx with toSend := permitted bs }
      out := { outcome := .ok, result := .bool true, events := [] } } := by
  have hcont : txFcContinue f (start s) = .next (done (.bool true)
      { start s with tx := { (start s).tx with toSend := permitted bs } }) := by
    simp only [txFcContinue, hbs]
  exact (txFcEnter_pass (s := start s) hact hlen htype).trans ((txFcDispatch_continue hfs).trans hcont)

end Sender

/-! ### Reassembly (R180): the buffer holds what has been sent -/

/-- The first `n` bytes of the buffer are those of the message. -/
def Holds (b : List Byte) (m : Memory) (n : Nat) : Prop := ∀ k < n, b[k]? = some (Memory.get m k)

/-- Copying the next run of the message keeps that. -/
theorem Holds.append {b : List Byte} {m : Memory} {i n : Nat} (h : Holds b m i) (hlen : i + n ≤ b.length) :
    Holds (bytesWrite b i (Memory.read m i n)) m (i + n) := by
  intro k hk
  rcases Nat.lt_or_ge k i with hlt | hge
  · rw [getElem?_bytesWrite_outside (.inl hlt), h k hlt]
  · obtain ⟨j, rfl⟩ := Nat.exists_eq_add_of_le hge
    have hj : j < n := by omega
    rw [getElem?_bytesWrite_inside (by rwa [Memory.length_read]) (by omega), Memory.read_eq_map]
    simp [hj]

/-- A transfer that is over on both sides: the receiver delivers the message `mem` of `len` bytes, which the
sender at `addr` has sent. -/
structure Delivered (addr : Addr) (len : Len) (mem : Memory) (S R : State) : Prop where
  sender : S.tx.state = .complete
  receiver : R.rx.state = .complete
  address : R.rx.msg.address = addr
  length : R.rx.msg.length = len
  isMultiFrame : R.rx.msg.isMultiFrame = true
  payload : ∀ k < len.toNat, Memory.get R.rx.msg.payload k = Memory.get mem k
  notified : .notifyRxComplete R.rx.msg ∈ R.out.events

section Step

variable {S R : State} {b : List Byte} {d : List Byte} {len : Nat}

/-- The two blocks in step, with the receiver's buffer named. -/
structure InStepWith (S R : State) (b : List Byte) : Prop where
  active : S.tx.state = .active
  addr : R.rx.srcAddr = S.tx.addr
  expected : R.rx.expected = S.tx.len
  received : R.rx.received = S.tx.offset
  reassembles : Reassembles R b
  holds : Holds b S.tx.msg S.tx.offset.toNat

theorem InStep.exists_buf (h : InStep S R) (hR : RxInv R) : ∃ b, InStepWith S R b := by
  obtain ⟨hact, hst, haddr, hexp, hrcv, b, hbuf, hholds⟩ := h
  have ⟨_, hle, _⟩ := hR
  exact ⟨b, hact, haddr, hexp, hrcv, ⟨hst, hbuf, hR.buf_length hbuf, hle⟩, hholds⟩

theorem le_dlen_cfFrame : 1 + cfPayloadCount S ≤ (cfFrame S).dlen.val :=
  le_dlen_sentFrame (Memory.length_read _ _ _) (Nat.add_le_add_left cfPayloadCount_le_seven 1)

/-- The receiver takes from the Consecutive frame exactly the bytes the sender has put into it. -/
theorem InStepWith.cfCount_cfFrame (h : InStepWith S R b) :
    cfCount (cfFrame S) R = cfPayloadCount S := by
  have hdlen := le_dlen_cfFrame (S := S)
  have h8 : (cfFrame S).dlen.val ≤ 8 := Nat.le_of_lt_succ (cfFrame S).dlen.isLt
  rw [cfCount, rxMissing, h.expected, h.received]
  unfold cfPayloadCount Config.cfData at *
  omega

theorem InStepWith.appended_cfFrame (h : InStepWith S R b) :
    appended (cfFrame S) R b = bytesWrite b S.tx.offset.toNat
      (Memory.read S.tx.msg S.tx.offset.toNat (cfPayloadCount S)) := by
  have hread : bytesRead (cfFrame S).bytes.toList 1 (cfPayloadCount S) =
      Memory.read S.tx.msg S.tx.offset.toNat (cfPayloadCount S) :=
    bytesRead_sentFrame (Memory.length_read _ _ _) (Nat.add_le_add_left cfPayloadCount_le_seven 1)
  rw [appended, h.cfCount_cfFrame, h.received, hread]

theorem InStepWith.exec_cfFrame (h : InStepWith S R b) :
    exec (.rxFrame S.tx.addr (cfFrame S)) R = rxConsecutive S.tx.addr (cfFrame S) (start R) := by
  have hdlen : 1 ≤ (cfFrame S).dlen.val := (Nat.le_add_right 1 _).trans le_dlen_cfFrame
  rw [← h.addr]
  exact exec_rxFrame_consecutive (ne_closed_of_reassembling h.reassembles.state) hdlen
    (decType_sentFrame (i := 0) hdlen)

/-- A Consecutive frame keeps the blocks in step or ends the transfer (R176, R180, R219). -/
theorem InStepWith.relay (h : InStepWith S R b) (hS : TxInv S) :
    ∃ R', exec (.rxFrame S.tx.addr (cfFrame S)) R = .next R' ∧
      (InStep (cfSent S) R' ∨ Delivered S.tx.addr S.tx.len S.tx.msg (cfSent S) R') := by
  have hcount := h.cfCount_cfFrame
  have hle := hS.next_le_len
  have hlen := h.reassembles.length
  have hmissing : rxMissing R = S.tx.len.toNat - S.tx.offset.toNat := by
    rw [rxMissing, h.expected, h.received]
  rw [h.expected] at hlen
  have hholds : Holds (appended (cfFrame S) R b) S.tx.msg (S.tx.offset.toNat + cfPayloadCount S) := by
    rw [h.appended_cfFrame]
    exact h.holds.append (by omega)
  by_cases hlast : S.tx.offset.toNat + cfPayloadCount S = S.tx.len.toNat
  · refine ⟨_, h.exec_cfFrame.trans (h.reassembles.rxConsecutive_full (by omega)), .inr ?_⟩
    refine ⟨if_pos hlast, rfl, rfl, ?_, rfl, fun k hk => ?_, by simp⟩
    · exact h.reassembles.length_completeMsg.trans h.expected
    · have hk := hholds k (by omega)
      refine (get_completeMsg _ _ _ k).trans ?_
      rw [List.getD_eq_getElem?_getD, hk, Option.getD_some]
  · have h7 : 7 < rxMissing R := by
      unfold cfPayloadCount Config.cfData at *
      omega
    refine ⟨_, h.exec_cfFrame.trans (h.reassembles.rxConsecutive_more h7), .inl ?_⟩
    have hoff : (cfSent S).tx.offset.toNat = S.tx.offset.toNat + cfPayloadCount S := toNat_toLen offset_fits
    refine ⟨(if_neg hlast).trans h.active, h.reassembles.state, h.addr, h.expected, ?_, _, rfl, ?_⟩
    · show toLen _ = toLen _
      rw [hcount, h.received]
    · rw [hoff]
      exact hholds

theorem mayTransmit_of_ne {ts : ToSend} (h : ts ≠ .count 0) : mayTransmit ts = true := by
  cases ts with
  | unlimited => rfl
  | count k => exact decide_eq_true fun hk => h (congrArg ToSend.count hk)

/-- The sender's TX_CONTINUE and the receiver's RX_FRAME of its frame, from two legal blocks in step. -/
theorem InStep.relay (h : InStep S R) (hS : Inv S) (hR : Inv R) (hts : S.tx.toSend ≠ .count 0)
    (hans : nextAnswer S = true) :
    exec .txContinue S = .next (cfSent S) ∧
    ∃ R', exec (.rxFrame S.tx.addr (cfFrame S)) R = .next R' ∧
      (InStep (cfSent S) R' ∨ Delivered S.tx.addr S.tx.len S.tx.msg (cfSent S) R') := by
  obtain ⟨-, -, htx, -⟩ := hS
  obtain ⟨-, hrx, -⟩ := hR
  obtain ⟨b, hb⟩ := h.exists_buf hrx
  have ⟨_, hmax, _⟩ := htx
  exact ⟨exec_txContinue_accepted hb.active (mayTransmit_of_ne hts) (htx.next_le_len.trans hmax) hans,
    hb.relay htx⟩

theorem frameEvent_mem_cfSent : frameEvent S.tx.addr (cfFrame S) S.cfg.context ∈ (cfSent S).out.events :=
  List.mem_cons_self

/-- A frame presented to a legal receiver from its session's address leaves it legal. -/
theorem inv_of_rxFrame {R' : State} (hR : Inv R) (ha : R.rx.srcAddr = a)
    (h : exec (.rxFrame a f) R = .next R') : Inv R' := by
  have ⟨_, hrx, _⟩ := inv_iff.mp hR
  exact (exec_effect h).inv hR (decide_eq_true (ha ▸ hrx.src))

/-- While a legal transfer is active there is something to send (R33). -/
theorem offset_lt_len (hS : Inv S) (hact : S.tx.state = .active) :
    S.tx.offset.toNat < S.tx.len.toNat := by
  obtain ⟨-, -, ⟨-, -, hactive⟩, -⟩ := hS
  obtain ⟨-, -, -, hlt, -⟩ := hactive hact
  exact hlt

/-! The number of frames left is ceil((tx.len - tx.offset) / 7), and each frame sent is one less. -/

theorem cfSent_framesLeft {k : Nat} (hk : (S.tx.len.toNat - S.tx.offset.toNat + 6) / 7 = k + 1) :
    ((cfSent S).tx.len.toNat - (cfSent S).tx.offset.toNat + 6) / 7 = k := by
  have hoff : (cfSent S).tx.offset.toNat = S.tx.offset.toNat + cfPayloadCount S := toNat_toLen offset_fits
  rw [hoff]
  show (S.tx.len.toNat - _ + 6) / 7 = k
  unfold cfPayloadCount Config.cfData
  omega

theorem framesLeft_eq_zero {k : Nat} (hk : (S.tx.len.toNat - S.tx.offset.toNat + 6) / 7 = k + 1)
    (hlast : S.tx.offset.toNat + cfPayloadCount S = S.tx.len.toNat) : k = 0 := by
  unfold cfPayloadCount Config.cfData at hlast
  omega

/-- An active transfer is COMPLETE after a frame only if that was the last one. -/
theorem offset_eq_len_of_cfSent (hact : S.tx.state = .active) (h : (cfSent S).tx.state = .complete) :
    S.tx.offset.toNat + cfPayloadCount S = S.tx.len.toNat := by
  by_contra hne
  simp [cfSent, hne, hact] at h

/-- With an unlimited grant and a transport that accepts every frame, the rest of the message takes
ceil((tx.len - tx.offset) / 7) frames, and is then delivered (R180(c), R222). -/
theorem InStep.relayed {k : Nat} (h : InStep S R) (hS : Inv S) (hR : Inv R)
    (hts : S.tx.toSend = .unlimited) (hans : S.answers = List.replicate k true)
    (hk : (S.tx.len.toNat - S.tx.offset.toNat + 6) / 7 = k) :
    ∃ S' R', Relayed k S R S' R' ∧ Delivered S.tx.addr S.tx.len S.tx.msg S' R' := by
  induction k generalizing S R with
  | zero =>
    have ⟨hact, _⟩ := h
    have hlt := offset_lt_len hS hact
    omega
  | succ k ih =>
    have ⟨hact, _, haddr, _⟩ := h
    obtain ⟨hsend, R₁, hrecv, hnext⟩ :=
      h.relay hS hR (by simp [hts]) (by simp [nextAnswer, hans, List.replicate_succ])
    have hrelay {S' R' : State} (hrest : Relayed k (cfSent S) R₁ S' R') : Relayed (k + 1) S R S' R' :=
      ⟨cfSent S, R₁, cfFrame S, hsend, frameEvent_mem_cfSent, hrecv, hrest⟩
    rcases hnext with hstep | hdone
    · obtain ⟨S', R', hrest, hdone⟩ := ih hstep ((exec_effect hsend).inv hS rfl)
        (inv_of_rxFrame hR haddr hrecv) (by simp [cfSent, hts, afterOneFrame])
        (by simp [cfSent, hans, List.replicate_succ]) (cfSent_framesLeft hk)
      exact ⟨S', R', hrelay hrest, hdone⟩
    · obtain rfl : k = 0 := framesLeft_eq_zero hk (offset_eq_len_of_cfSent hact hdone.sender)
      exact ⟨cfSent S, R₁, hrelay ⟨rfl, rfl⟩, hdone⟩

/-! ### The start of a transfer (R174, R175, R180) -/

/-- What TX_BEGIN captures of the message. -/
theorem get_begun_msg {k : Nat} (hwf : S.tx.msg.wf = true) (hlen : len ≤ d.length) (hk : k < len) :
    Memory.get (begun a d len S).msg k = d.getD k 0 := by
  have h := Memory.get_write_inside hwf (i := 0) (k := k) (v := d.take len)
    (by rw [List.length_take]; omega)
  rw [Nat.zero_add, List.getD_eq_getElem?_getD, List.getElem?_take_of_lt hk,
    ← List.getD_eq_getElem?_getD] at h
  exact h

/-- The flow-control frame with which the receiver answers a First frame. -/
def grant (s : State) : Frame := sentFrame s (header 3 0 0 0) 3 []

theorem three_le_dlen_grant : 3 ≤ (grant s).dlen.val := le_dlen_sentFrame (n := 0) rfl (by omega)

theorem xmitEvent_grant : xmitEvent a grantFrame 3 s = frameEvent a (grant s) s.cfg.context :=
  xmitEvent_eq_frameEvent (H := header 3 0 0 0) (i := 3) (v := []) rfl (by decide)

/-- The sender with an unlimited grant. -/
def granted (s : State) : State :=
  { s with
    tx := { s.tx with toSend := .unlimited }
    out := { outcome := .ok, result := .bool true, events := [] } }

/-- The sender takes the receiver's answer as an unlimited grant (R214). -/
theorem exec_txFc_grant {r : Addr} (hact : S.tx.state = .active) (hmin : S.par.fcMinLen ≤ 3) :
    exec (.txFc r (grant R)) S = .next (granted S) := by
  have h3 := three_le_dlen_grant (s := R)
  have h1 : 1 ≤ (grant R).dlen.val := h3.trans' (by decide)
  exact exec_txFc_continue (bs := 0) hact (hmin.trans h3) (decType_sentFrame (i := 2) h1)
    (fieldAt_low_sentFrame (i := 2) h1) (fieldAt_of_lt _ (h3.trans' (by decide)))

theorem dlen_firstFrame : 8 ≤ (firstFrame a d len S).dlen.val :=
  le_dlen_sentFrame (Memory.length_read _ _ 6) le_rfl

theorem decType_firstFrame : decType (firstFrame a d len S) = some 1 :=
  have h1 : 1 ≤ (firstFrame a d len S).dlen.val := dlen_firstFrame.trans' (by decide)
  decType_sentFrame (i := 1) h1

theorem decFfDl_firstFrame (h12 : len ≤ 4095) : decFfDl (firstFrame a d len S) = some len := by
  have h2 : 2 ≤ (firstFrame a d len S).dlen.val := dlen_firstFrame.trans' (by decide)
  refine (decFfDl_sentFrame (i := 0) h2).trans (congrArg some ?_)
  rw [BitVec.toNat_ofNat, Nat.mod_eq_of_lt (by omega)]

theorem ffCount_firstFrame (h8 : 8 ≤ len) : ffCount (firstFrame a d len S) len = 6 := by
  have hle := dlen_firstFrame (a := a) (d := d) (len := len) (S := S)
  have hlt := (firstFrame a d len S).dlen.isLt
  unfold ffCount
  omega

/-- The First frame's bytes open the receiver's buffer with the first six of the message. -/
theorem holds_ffBuffer_firstFrame (h8 : 8 ≤ len) (j : Nat) :
    Holds (ffBuffer j (firstFrame a d len S) len) (begun a d len S).msg 6 := by
  have hread : bytesRead (firstFrame a d len S).bytes.toList 2 6 = Memory.read (begun a d len S).msg 0 6 :=
    bytesRead_sentFrame (Memory.length_read _ _ _) le_rfl
  have h0 : Holds (freshBuffer j len) (begun a d len S).msg 0 := nofun
  rw [ffBuffer, ffCount_firstFrame h8, hread]
  exact h0.append (n := 6) (by rw [length_freshBuffer]; omega)

/-- A waiting receiver accepts the First frame, answers it with the grant, and is then in step. -/
theorem exec_rxFrame_firstFrame (hst : R.rx.state = .awaitFf) (ha : R.rx.srcAddr = a) (h8 : 8 ≤ len)
    (h12 : len ≤ 4095) (hmax : len ≤ R.par.maxMsg) (hans : nextAnswer R = true) :
    ∃ R', exec (.rxFrame a (firstFrame a d len S)) R = .next R' ∧ InStep (firstSent a d len S) R' ∧
      frameEvent R.rx.replyAddr (grant R) R.cfg.context ∈ R'.out.events := by
  subst ha
  refine ⟨_, (exec_rxFrame_first (ne_closed_of_awaitFf hst) (dlen_firstFrame.trans' (by decide))
    decType_firstFrame).trans (rxFirst_accepted hst (decFfDl_firstFrame h12) hmax hans), ?_, ?_⟩
  · refine ⟨rfl, rfl, rfl, rfl, ?_, _, rfl, holds_ffBuffer_firstFrame h8 R.asked⟩
    exact congrArg toLen (ffCount_firstFrame h8)
  · rw [← xmitEvent_grant]
    exact List.mem_cons_of_mem _ List.mem_cons_self

theorem dlen_singleFrame (h7 : len ≤ 7) : 1 + len ≤ (singleFrame a d len S).dlen.val :=
  le_dlen_sentFrame (Memory.length_read _ _ _) (Nat.add_le_add_left h7 1)

theorem decSfDl_singleFrame (h7 : len ≤ 7) : decSfDl (singleFrame a d len S) = some len := by
  have h1 : 1 ≤ (singleFrame a d len S).dlen.val := (dlen_singleFrame h7).trans' (Nat.le_add_right 1 _)
  refine (fieldAt_low_sentFrame (i := 0) h1).trans (congrArg some ?_)
  rw [BitVec.toNat_ofNat, Nat.mod_eq_of_lt (by omega)]

/-- The Message of the Single frame is what TX_BEGIN has captured. -/
theorem get_singleMsg_singleFrame {k : Nat} (h7 : len ≤ 7) (hk : k < len) :
    Memory.get (singleMsg a (singleFrame a d len S) len).payload k =
      Memory.get (begun a d len S).msg k := by
  have hread : bytesRead (singleFrame a d len S).bytes.toList 1 len =
      Memory.read (begun a d len S).msg 0 len :=
    bytesRead_sentFrame (Memory.length_read _ _ _) (Nat.add_le_add_left h7 1)
  rw [singleMsg, hread, get_completeMsg, Memory.getD_read _ _ hk, Nat.zero_add]

/-- A waiting receiver delivers the Single frame's Message at once (R174). -/
theorem exec_rxFrame_singleFrame (hst : R.rx.state = .awaitFf) (ha : R.rx.srcAddr = a) (h7 : len ≤ 7) :
    exec (.rxFrame a (singleFrame a d len S)) R = .next { R with
      rx := { R.rx with state := .complete, msg := singleMsg a (singleFrame a d len S) len }
      out := { outcome := .ok
               result := .message (singleMsg a (singleFrame a d len S) len)
               events := [.notifyRxComplete (singleMsg a (singleFrame a d len S) len)] } } := by
  subst ha
  have hdlen := dlen_singleFrame (a := R.rx.srcAddr) (d := d) (S := S) h7
  have h1 : 1 ≤ (singleFrame R.rx.srcAddr d len S).dlen.val := hdlen.trans' (Nat.le_add_right 1 _)
  exact (exec_rxFrame_single (ne_closed_of_awaitFf hst) h1 (decType_sentFrame (i := 0) h1)).trans
    (rxSingle_complete hst (decSfDl_singleFrame h7) h7 (by omega))

end Step

end Transfer

/-! ### The statements -/

/-- Settles O49: the sender's frame carries the next bytes of its message, which the receiver appends. -/
theorem consecutiveFrameKeepsTheBlocksInStep : Obligations.ConsecutiveFrameKeepsTheBlocksInStep := by
  intro S R hS hR h hts hans
  obtain ⟨hsend, R', hrecv, hnext⟩ := h.relay hS hR hts hans
  refine ⟨cfSent S, R', cfFrame S, hsend, frameEvent_mem_cfSent, hrecv, hnext.imp_right fun hd => ?_⟩
  exact ⟨hd.sender, hd.receiver, hd.address, hd.length, hd.isMultiFrame, hd.payload, hd.notified⟩

/-- Settles O52: the First frame puts the blocks in step, the grant opens the transfer, and the rest is
relayed frame by frame. -/
theorem wholeMessageIsDelivered : Obligations.WholeMessageIsDelivered := by
  intro S R a d len hS hR hwf h8 h12 hmaxR hmin hst ha hansS hansR
  have ⟨_, _, htx, _⟩ := inv_iff.mp hS
  have ⟨hmsg, _⟩ := htx.store
  have hpay : S.par.payloadOk d len = true := (Laws.Presentable.and_true_split hwf).2
  have hlen : len ≤ d.length := of_decide_eq_true (Laws.Presentable.and_true_split hpay).1
  rw [Nat.add_comm, List.replicate_succ] at hansS
  have hbegin : exec (.txBegin a d len) S = .next (firstSent a d len S) :=
    exec_txBegin_first h8 h12 (length_le_of_payloadOk hpay) (by simp [nextAnswer, hansS])
  obtain ⟨R₁, hfirst, hstep, hgrant⟩ :=
    exec_rxFrame_firstFrame (d := d) (S := S) hst ha h8 h12 hmaxR hansR
  have htotal : (toLen len).toNat = len := toNat_toLen (by omega)
  have hcount : ((toLen len).toNat - 6 + 6) / 7 = len / 7 := by
    rw [htotal]
    omega
  obtain ⟨S₃, R₃, hrelayed, hd⟩ := InStep.relayed (S := granted (firstSent a d len S)) hstep
    ((exec_effect hbegin).inv hS hwf) (inv_of_rxFrame hR ha hfirst) rfl (congrArg List.tail hansS) hcount
  refine ⟨firstSent a d len S, R₁, granted (firstSent a d len S), S₃, R₃, firstFrame a d len S, grant R,
    hbegin, List.mem_cons_self, hfirst, hgrant, exec_txFc_grant rfl hmin, hrelayed, hd.sender, hd.receiver,
    hd.address, (congrArg BitVec.toNat hd.length).trans htotal, hd.isMultiFrame, fun k hk => ?_,
    hd.notified⟩
  exact (hd.payload k (hk.trans_eq htotal.symm)).trans (get_begun_msg (a := a) hmsg hlen hk)

/-- Settles O48: the First frame carries the first six bytes, and the receiver holds exactly these. -/
theorem firstFramePutsTheBlocksInStep : Obligations.FirstFramePutsTheBlocksInStep := by
  intro S R a d len _ _ h8 h12 _ hmaxS hmaxR hst ha hansS hansR
  obtain ⟨R', hfirst, hstep, -⟩ := exec_rxFrame_firstFrame (d := d) (S := S) hst ha h8 h12 hmaxR hansR
  exact ⟨firstSent a d len S, R', firstFrame a d len S, exec_txBegin_first h8 h12 hmaxS hansS,
    List.mem_cons_self, hfirst, hstep⟩

/-- Settles O51: the Single frame carries the whole message. -/
theorem singleFrameTransferDeliversTheMessage : Obligations.SingleFrameTransferDeliversTheMessage := by
  intro S R a d len hmsg h7 hlen hmax hst ha hans
  refine ⟨singleSent a d len S, _, singleFrame a d len S, exec_txBegin_single h7 hmax hans,
    List.mem_cons_self, exec_rxFrame_singleFrame hst ha h7, rfl, rfl, rfl, length_singleMsg h7, rfl,
    fun k hk => ?_, List.mem_cons_self⟩
  exact (get_singleMsg_singleFrame h7 hk).trans (get_begun_msg hmsg hlen hk)

end Sys2Proof.Machine

/-! ## Send Session (42_send.md): TX_BEGIN, flow control, TX_CONTINUE, the transitions, the whole transfer -/

namespace Sys2Proof.Machine

section Send

variable {a : Addr} {f : Frame} {i : Instr} {s t : State}

/-! ### The used bytes of a transmitted frame (R92 to R94, R210, R211, R219) -/

section UsedBytes

variable {d : List Byte} {len : Nat}

/-- A payload after a one-byte header goes out as header and payload (R250, R251). -/
theorem xmitEvent_withPayload_one (ty low : Nibble) {v : List Byte} (h : v.length ≤ 7) :
    xmitEvent a (withPayload (header ty low 0 0) 1 v) (1 + v.length) s =
      wireEvent s a (joinNibbles ty low :: v) := by
  rw [Nat.add_comm]
  exact xmitEvent_eq (length_withPayload _ _ _) (withPayload_one ty low h)

/-- A payload after a two-byte header goes out as header and payload (R250, R251). -/
theorem xmitEvent_withPayload_two (ty low : Nibble) (b1 : Byte) {v : List Byte} (h : v.length ≤ 6) :
    xmitEvent a (withPayload (header ty low b1 0) 2 v) (2 + v.length) s =
      wireEvent s a (joinNibbles ty low :: b1 :: v) := by
  rw [Nat.add_comm]
  exact xmitEvent_eq (length_withPayload _ _ _) (withPayload_two ty low b1 h)

/-- The bytes of the next Consecutive frame: type 2 with the sequence number, the next unsent bytes. -/
def cfUsed (s : State) : List Byte :=
  BitVec.ofNat 8 (32 + s.tx.seq.toNat) ::
    (List.range (cfPayloadCount s)).map (fun k => Memory.get s.tx.msg (s.tx.offset.toNat + k))

theorem xmitEvent_cfUsed {F : List Byte} (h : nextCfBytes s = some F) :
    xmitEvent a F (1 + cfPayloadCount s) s = wireEvent s a (cfUsed s) := by
  have hevent := xmitEvent_withPayload_one (a := a) (s := s) 2 s.tx.seq
    (v := Memory.read s.tx.msg s.tx.offset.toNat (cfPayloadCount s))
    (by rw [Memory.length_read]; exact cfPayloadCount_le_seven)
  have hb0 := joinNibbles_ofNat 2 s.tx.seq.isLt
  rw [BitVec.ofNat_toNat, BitVec.setWidth_eq] at hb0
  rw [Memory.length_read, hb0, Memory.read_eq_map] at hevent
  obtain rfl := Option.some.inj (nextCfBytes_eq.symm.trans h)
  rwa [Memory.read_eq_map]

/-- TX_BEGIN writes exactly the first `len` bytes of `TXMSG` (R212). -/
theorem get_begun_msg_eq_ite (hwf : s.tx.msg.wf = true) (hlen : len ≤ d.length) (j : Nat) :
    Memory.get (begun a d len s).msg j = if j < len then d.getD j 0 else Memory.get s.tx.msg j := by
  split
  next hj => exact get_begun_msg hwf hlen hj
  next hj => exact Memory.get_write_outside hwf (.inr (by rw [List.length_take]; omega))

/-- The first `n` bytes of the captured message are those of the payload. -/
theorem read_begun_msg {n : Nat} (hwf : s.tx.msg.wf = true) (hlen : len ≤ d.length) (hn : n ≤ len) :
    Memory.read (begun a d len s).msg 0 n = d.take n := by
  have hall := Memory.read_write hwf 0 (d.take len)
  rw [List.length_take, Nat.min_eq_left hlen] at hall
  rw [← Memory.take_read _ _ hn]
  refine (congrArg (List.take n) hall).trans ?_
  rw [List.take_take, Nat.min_eq_left hn]

/-- The bytes of a Single frame: type 0 with the length, the message. -/
theorem xmitEvent_singleUsed (hwf : s.tx.msg.wf = true) (hlen : len ≤ d.length) (h7 : len ≤ 7)
    {F : List Byte} (h : singleFrameBytes (txCapture a d len (start s)) = some F) :
    xmitEvent a F (1 + len) s = wireEvent s a (BitVec.ofNat 8 len :: d.take len) := by
  have hn : (txCapture a d len (start s)).tx.len.toNat = len := toNat_toLen (by omega)
  have hread : Memory.read (txCapture a d len (start s)).tx.msg 0 len = d.take len :=
    read_begun_msg hwf hlen le_rfl
  have htake : (d.take len).length = len := by rw [List.length_take, Nat.min_eq_left hlen]
  have hevent := xmitEvent_withPayload_one (a := a) (s := s) 0 (BitVec.ofNat 4 len) (htake.trans_le h7)
  rw [htake, joinNibbles_ofNat 0 (by omega)] at hevent
  rw [singleFrameBytes_eq (hn.trans_le h7), hn, hread] at h
  obtain rfl := Option.some.inj h
  simpa using hevent

/-- The bytes of a First frame: type 1 with the total length, the first six bytes of the message. -/
def ffUsed (d : List Byte) (len : Nat) : List Byte :=
  BitVec.ofNat 8 (16 + len / 256) :: BitVec.ofNat 8 (len % 256) :: d.take 6

theorem xmitEvent_ffUsed (hwf : s.tx.msg.wf = true) (hlen : len ≤ d.length) (h8 : 8 ≤ len)
    (h12 : len ≤ 4095) {F : List Byte} (h : firstFrameBytes (txCapture a d len (start s)) = some F) :
    xmitEvent a F 8 s = wireEvent s a (ffUsed d len) := by
  have htotal : (BitVec.ofNat 12 len).toNat = len := by
    rw [BitVec.toNat_ofNat, Nat.mod_eq_of_lt (by omega)]
  have hhead : header 1 (ffDlHigh (BitVec.ofNat 12 len)) (ffDlLow (BitVec.ofNat 12 len)) 0 =
      headerOfNat (16 + len / 256) (len % 256) 0 := by
    rw [header_eq_headerOfNat, toNat_ffDlHigh, toNat_ffDlLow, htotal]
    rfl
  have htake : (d.take 6).length = 6 := by rw [List.length_take]; omega
  have hevent := xmitEvent_withPayload_two (a := a) (s := s) 1 (ffDlHigh (BitVec.ofNat 12 len))
    (ffDlLow (BitVec.ofNat 12 len)) htake.le
  obtain rfl := Option.some.inj ((firstFrameBytes_begun h12).symm.trans h)
  rw [read_begun_msg hwf hlen (by omega)]
  rw [htake] at hevent
  refine hevent.trans (congrArg (wireEvent s a) ?_)
  exact congrArg (fun H => H.b0 :: H.b1 :: d.take 6) hhead

end UsedBytes

/-! ### TX_BEGIN (R210 to R212) -/

section Begin

variable {d : List Byte} {len : Nat}

/-- At most 7 bytes: one Single frame of the message, and the session is terminal (R210). -/
theorem exec_txBegin_single_eq (h7 : len ≤ 7) (hlen : len ≤ d.length) (hmax : len ≤ s.par.maxMsg)
    (hwf : s.tx.msg.wf = true) : exec (.txBegin a d len) s = .next { s with
      tx := { begun a d len s with
        state := if nextAnswer s then .complete else .failed
        offset := if nextAnswer s then toLen len else 0 }
      answers := s.answers.tail
      asked := s.asked + 1
      out := { outcome := if nextAnswer s then .ok else .txErrXmit
               result := .flags true (nextAnswer s)
               events := [wireEvent s a (BitVec.ofNat 8 len :: d.take len),
                 .notifyTxSent a (nextAnswer s)] } } := by
  have hn : (txCapture a d len (start s)).tx.len.toNat = len := toNat_toLen (by omega)
  obtain ⟨F, hF, -, hsingle⟩ := txSingle_eq (s := txCapture a d len (start s)) (hn.trans_le h7)
  rw [← xmitEvent_singleUsed hwf hlen h7 hF]
  rw [hn] at hsingle
  exact (execTxBegin_short hmax h7).trans (congrArg Host.Outcome.next hsingle)

/-- 8 to 4095 bytes: one First frame, and the session is ACTIVE or has failed (R211). -/
theorem exec_txBegin_multi_eq (h8 : 8 ≤ len) (h12 : len ≤ 4095) (hlen : len ≤ d.length)
    (hmax : len ≤ s.par.maxMsg) (hwf : s.tx.msg.wf = true) : exec (.txBegin a d len) s = .next { s with
      tx := { begun a d len s with
        state := if nextAnswer s then .active else .failed
        offset := if nextAnswer s then 6 else 0 }
      answers := s.answers.tail
      asked := s.asked + 1
      out := { outcome := if nextAnswer s then .ok else .txErrXmit
               result := .flags (!nextAnswer s) false
               events := wireEvent s a (ffUsed d len) ::
                 (if nextAnswer s then [] else [.notifyTxSent a false]) } } := by
  have hF := firstFrameBytes_begun (a := a) (d := d) (s := s) h12
  rw [← xmitEvent_ffUsed hwf hlen h8 h12 hF]
  have hans : nextAnswer (txCapture a d len (start s)) = nextAnswer s := rfl
  refine (execTxBegin_long hmax h8).trans (congrArg Host.Outcome.next ((txMulti_eq hF).trans ?_))
  rw [hans]
  cases nextAnswer s <;> rfl

/-- A length that does not fit 12 bits fails without a transmission (R211). -/
theorem exec_txBegin_tooLong (h12 : 4095 < len) (hmax : len ≤ s.par.maxMsg) (h16 : s.par.maxMsg ≤ 65535) :
    exec (.txBegin a d len) s = .next { s with
      tx := { begun a d len s with state := .failed }
      out := { outcome := .txErrEncode, result := .flags true false, events := [.notifyTxSent a false] } } := by
  have hn : (txCapture a d len (start s)).tx.len.toNat = len := toNat_toLen (by omega)
  have hnone := firstFrameBytes_none (s := txCapture a d len (start s)) (h12.trans_eq hn.symm)
  exact (execTxBegin_long hmax (by omega)).trans
    (congrArg Host.Outcome.next ((txMulti_encode hnone).trans (txFail_eq rfl _)))

end Begin

/-! ### Flow control (R213 to R218) -/

section FlowControl

variable {k : State → Answer}

/-- The command ends with outcome `o` and result `b`, logged if `o` is, and no register is written. -/
def answered (o : OutcomeName) (b : Bool) (s : State) : State :=
  { s with out := { outcome := o, result := .bool b, events := if o.logged then logEvents s o else [] } }

theorem raise_start (o : OutcomeName) (b : Bool) : raise o (.bool b) (start s) = answered o b s := by
  rw [raise_eq, answered]
  cases o.logged <;> rfl

/-! The handlers of the four statuses. -/

theorem permitted_toNat (bs : Byte) : permitted bs.toNat = if bs = 0 then .unlimited else .count bs := by
  have hzero : bs.toNat = 0 ↔ bs = 0 := BitVec.toNat_inj (y := 0)
  simp only [permitted, hzero, BitVec.ofNat_toNat, BitVec.setWidth_eq]

theorem txFcContinue_start {fs : Nibble} {bs st : Byte} {tl : Tail3} {n : Fin 9} (h2 : 2 ≤ n.val) :
    txFcContinue (frameFc fs bs st tl n) (start s) = .next { s with
      tx := { s.tx with toSend := if bs = 0 then .unlimited else .count bs }
      out := { outcome := .ok, result := .bool true, events := [] } } := by
  simp only [txFcContinue, decFcBs_frameFc, if_pos h2, permitted_toNat]
  rfl

theorem txFcWait_start : txFcWait (start s) = .next { s with
    tx := { s.tx with toSend := .count 0 }
    out := { outcome := .ok, result := .bool true, events := [] } } := rfl

theorem txFcOverflow_start : txFcOverflow (start s) = .next { s with
    tx := { s.tx with state := .failed }
    out := { outcome := .txFcOverflow, result := .bool true, events := [.notifyTxSent s.tx.addr false] } } :=
  congrArg Host.Outcome.next (txFail_eq rfl _)

theorem txFcOtherStatus_start : txFcOtherStatus (start s) = .next (answered .txFcRejStatus false s) :=
  congrArg Host.Outcome.next (raise_start _ _)

/-! The validation, which every flow-control frame goes through, delivered or given to TX_FC. -/

theorem txFcEnter_start_inactive (h : s.tx.state ≠ .active) :
    txFcEnter f (start s) k = .next (answered .txFcIgnState false s) := by
  rw [txFcEnter_inactive (s := start s) h, raise_start]

theorem txFcEnter_start_malformed (hact : s.tx.state = .active)
    (h : f.dlen.val < s.par.fcMinLen ∨ decType f ≠ some 3) :
    txFcEnter f (start s) k = .next (answered .txFcRejFormat false s) := by
  rw [txFcEnter_malformed (s := start s) hact h, raise_start]

/-- An empty frame has no type, and the type of another is its high nibble (R131, R133). -/
theorem decType_ne_three (h : f.dlen = 0 ∨ (hiNibble f.bytes.b0).toNat ≠ 3) : decType f ≠ some 3 := by
  rcases h with h | h
  · simp [decType, fieldAt, h]
  · simpa [decType, fieldAt] using fun _ => h

/-- A flow-control frame of at least `FC_MIN_LEN` bytes reaches its handler during a transfer. -/
theorem txFcEnter_start_pass (fs : Nibble) (bs st : Byte) (tl : Tail3) {n : Fin 9}
    (hact : s.tx.state = .active) (hlen : s.par.fcMinLen ≤ n.val) (hmin : 2 ≤ s.par.fcMinLen) :
    txFcEnter (frameFc fs bs st tl n) (start s) k = k (start s) :=
  txFcEnter_pass (s := start s) hact hlen (decType_frameFc fs bs st tl (by omega))

/-- TX_FC then selects the handler by the status. -/
theorem exec_txFc_frameFc (fs : Nibble) (bs st : Byte) (tl : Tail3) {n : Fin 9}
    (hact : s.tx.state = .active) (hlen : s.par.fcMinLen ≤ n.val) (hmin : 2 ≤ s.par.fcMinLen)
    (hstatus : decFcFs (frameFc fs bs st tl n) = some fs.toNat →
      txFcDispatch (frameFc fs bs st tl n) (start s) = k (start s)) :
    exec (.txFc a (frameFc fs bs st tl n)) s = k (start s) :=
  (txFcEnter_start_pass fs bs st tl hact hlen hmin).trans
    (hstatus (decFcFs_frameFc fs bs st tl (by omega)))

end FlowControl

/-! ### TX_CONTINUE (R219, R220) -/

section Continue

/-- While no transfer is active or no frame is permitted nothing is done (R219 step 2, R220). -/
theorem exec_txContinue_noop (h : s.tx.state ≠ .active ∨ s.tx.toSend = .count 0) :
    exec .txContinue s = .next (answered .ok true s) := by
  show execTxContinue s = _
  unfold execTxContinue
  by_cases hact : s.tx.state = .active
  · have hts : s.tx.toSend = .count 0 := h.resolve_left (not_not.mpr hact)
    simp only [start_tx, hact, hts]
    rfl
  · exact if_pos hact

/-- One frame less is permitted, unless any number is. -/
def oneFewer : ToSend → ToSend
  | .unlimited => .unlimited
  | .count k => .count (k - 1)

/-- Where a frame is permitted, sending it takes one from the count (R38, R219). -/
theorem afterOneFrame_eq_oneFewer {ts : ToSend} (h : ts ≠ .count 0) : afterOneFrame ts = oneFewer ts := by
  cases ts with
  | unlimited => rfl
  | count k => exact if_neg fun hk => h (congrArg ToSend.count hk)

variable (hact : s.tx.state = .active) (hts : mayTransmit s.tx.toSend = true)
  (hmax : s.tx.offset.toNat + cfPayloadCount s ≤ s.par.maxMsg)

include hact hts hmax

/-- One Consecutive frame is handed over, and the transport accepts it or not (R219 steps 3 to 11). -/
theorem exec_txContinue_sends : exec .txContinue s = .next (
    if nextAnswer s then { s with
      tx := { s.tx with
        state := if s.tx.offset.toNat + cfPayloadCount s = s.tx.len.toNat then .complete else .active
        seq := s.tx.seq + 1
        offset := toLen (s.tx.offset.toNat + cfPayloadCount s)
        toSend := afterOneFrame s.tx.toSend }
      answers := s.answers.tail
      asked := s.asked + 1
      out := { outcome := .ok
               result := .bool true
               events := wireEvent s s.tx.addr (cfUsed s) ::
                 (if s.tx.offset.toNat + cfPayloadCount s = s.tx.len.toNat then
                    [.notifyTxSent s.tx.addr true] else []) } }
    else { s with
      tx := { s.tx with state := .failed }
      answers := s.answers.tail
      asked := s.asked + 1
      out := { outcome := .txErrXmit
               result := .bool false
               events := [wireEvent s s.tx.addr (cfUsed s), .notifyTxSent s.tx.addr false] } }) := by
  obtain ⟨F, hF, -, hpump⟩ := txPump_eq (s := start s)
  rw [xmitEvent_cfUsed hF, show (start s).tx.state = .active from hact] at hpump
  exact (execTxContinue_pump hact hts hmax).trans (congrArg Host.Outcome.next hpump)

end Continue

/-! ### The transitions (R221) -/

section Transitions

theorem ne_of_mayTransmit {ts : ToSend} (h : mayTransmit ts = true) : ts ≠ .count 0 := by
  rintro rfl
  cases h

/-- Out of ACTIVE lead TX_CONTINUE with a frame permitted, and Overflow. -/
theorem TxEffect.transition (h : TxEffect i s t) (hne : t.tx.state ≠ s.tx.state) :
    (s.tx.state = .active ∧ s.tx.toSend ≠ .count 0 ∧ i = .txContinue ∧
      (t.tx.state = .complete ∨ t.tx.state = .failed)) ∨
    (s.tx.state = .active ∧ t.tx.state = .failed ∧ PresentsOverflow i) := by
  cases h with
  | granted => exact absurd rfl hne
  | overflow hi hact => exact .inr ⟨hact, rfl, hi⟩
  | sent F ts hi hact hts =>
    refine .inl ⟨hact, ne_of_mayTransmit hts, hi, .inl (if_pos ?_)⟩
    by_contra hmore
    exact hne ((if_neg hmore).trans hact.symm)
  | lost F hi hact hts => exact .inl ⟨hact, ne_of_mayTransmit hts, hi, .inr rfl⟩

/-- TX_BEGIN leads to a state of the table by the length of the message (R210, R211). -/
theorem BeginEffect.transition {d : List Byte} {len : Nat} (h : BeginEffect a d len s t) :
    (len ≤ 7 → t.tx.state = .complete ∨ t.tx.state = .failed) ∧
    (7 < len → t.tx.state = .active ∨ t.tx.state = .failed) := by
  cases h with
  | single F h7 => exact ⟨fun _ => .inl rfl, fun h => absurd h7 (not_le.mpr h)⟩
  | multi F h8 => exact ⟨fun h => absurd h8 (not_le.mpr (Nat.lt_succ_of_le h)), fun _ => .inl rfl⟩
  | lost | tooLong => exact ⟨fun _ => .inr rfl, fun _ => .inr rfl⟩

end Transitions

/-! ### The notification (R224, R256) -/

section Notification

/-- The step notifies exactly if it makes the session terminal, or, for a step that constructs the session
anew, leaves it terminal; with the session's address and success flag. -/
def NotifiesSender (constructs : Prop) (s t : State) : Prop := ∀ (a : Addr) (ok : Bool),
  .notifyTxSent a ok ∈ t.out.events ↔
    (constructs ∨ txIsComplete s = false) ∧ txIsComplete t = true ∧ a = t.tx.addr ∧ ok = txIsSuccessful t

variable {constructs : Prop}

/-- A step that emits no such notification and makes no session terminal. -/
theorem notifiesSender_of_silent (hev : ∀ a ok, .notifyTxSent a ok ∉ t.out.events)
    (hst : txIsComplete t = true → ¬ constructs ∧ txIsComplete s = true) : NotifiesSender constructs s t := by
  refine fun a ok => ⟨fun h => absurd h (hev a ok), fun ⟨hnew, ht, _⟩ => ?_⟩
  obtain ⟨hold, hs⟩ := hst ht
  exact absurd (hnew.resolve_left hold) (by simp [hs])

/-- A step that makes the session terminal and notifies of it. -/
theorem notifiesSender_of_terminal {ok : Bool} (hnew : constructs ∨ txIsComplete s = false)
    (hst : t.tx.state = if ok then .complete else .failed)
    (hev : ∀ a ok', .notifyTxSent a ok' ∈ t.out.events ↔ a = t.tx.addr ∧ ok' = ok) :
    NotifiesSender constructs s t := by
  have hflags : txIsComplete t = true ∧ txIsSuccessful t = ok := by
    simp only [txIsComplete, txIsSuccessful, hst]
    cases ok <;> exact ⟨rfl, rfl⟩
  obtain ⟨ht, hok⟩ := hflags
  exact fun a ok' => (hev a ok').trans ⟨fun h => ⟨hnew, ht, hok ▸ h⟩, fun ⟨_, _, h⟩ => hok ▸ h⟩

/-- A step that leaves the Send Session as it was. -/
theorem notifiesSender_of_unchanged (hev : ∀ a ok, .notifyTxSent a ok ∉ t.out.events) (htx : t.tx = s.tx)
    (hold : ¬ constructs) : NotifiesSender constructs s t := by
  obtain ⟨hc, -⟩ := txFlags_congr htx
  exact notifiesSender_of_silent hev fun ht => ⟨hold, hc.symm.trans ht⟩

theorem txIsComplete_of_active (h : s.tx.state = .active) : txIsComplete s = false := by
  simp only [txIsComplete, h]

theorem notifyTxSent_notMem_logEvents {o : OutcomeName} {ok : Bool} : .notifyTxSent a ok ∉ logEvents s o := by
  unfold logEvents
  split <;> simp

/-- The Receive Session emits no notification of the sender. -/
theorem RxEffect.notifyTxSent_notMem (h : RxEffect i s t) (ok : Bool) :
    .notifyTxSent a ok ∉ t.out.events := by
  cases h with
  | refused | short => simp [notifyTxSent_notMem_logEvents]
  | single | accepted | full | more => simp [xmitEvent]

/-- An active transfer is not terminal, so the steps that end it notify. -/
theorem TxEffect.notifiesSender (h : TxEffect i s t) (hold : ¬ constructs) :
    NotifiesSender constructs s t := by
  have hnew : constructs ∨ txIsComplete s = false := .inr (txIsComplete_of_active h.active)
  cases h with
  | granted => exact notifiesSender_of_silent (by simp) fun ht => ⟨hold, ht⟩
  | overflow | lost => exact notifiesSender_of_terminal (ok := false) hnew rfl (by simp [xmitEvent])
  | sent F ts hi hact =>
    by_cases hlast : s.tx.offset.toNat + cfPayloadCount s = s.tx.len.toNat
    · exact notifiesSender_of_terminal (ok := true) hnew (if_pos hlast) (by simp [xmitEvent, hlast])
    · exact notifiesSender_of_silent (by simp [xmitEvent, hlast]) (by simp [txIsComplete, hlast])

/-- TX_BEGIN notifies unless it leaves the transfer active. -/
theorem BeginEffect.notifiesSender {d : List Byte} {len : Nat} (h : BeginEffect a d len s t)
    (hnew : constructs) : NotifiesSender constructs s t := by
  cases h with
  | single =>
    exact notifiesSender_of_terminal (ok := true) (.inl hnew) rfl (by simp [xmitEvent, begun, txCapture])
  | multi => exact notifiesSender_of_silent (by simp [xmitEvent]) nofun
  | lost | tooLong =>
    exact notifiesSender_of_terminal (ok := false) (.inl hnew) rfl (by simp [xmitEvent, begun, txCapture])

/-- Every instruction; only TX_BEGIN constructs the session anew. -/
theorem Effect.notifiesSender (h : Effect i s t) : NotifiesSender (∃ a d n, i = .txBegin a d n) s t := by
  cases h with
  | output o r hb =>
    refine notifiesSender_of_unchanged (fun a ok => ?_) rfl (by simpa using hb)
    dsimp only
    split
    · exact notifyTxSent_notMem_logEvents
    · exact List.not_mem_nil
  | opened a r hi =>
    refine notifiesSender_of_unchanged (fun a ok => ?_) rfl (by simp [hi])
    dsimp only
    split <;> simp
  | rx hr _ h =>
    refine notifiesSender_of_unchanged (fun _ => h.notifyTxSent_notMem) h.tx_eq ?_
    rintro ⟨a, d, n, rfl⟩
    cases hr
  | tx _ hb h => exact h.notifiesSender (by simpa using hb)
  | begin a d len hi _ h => exact h.notifiesSender ⟨a, d, len, hi⟩

end Notification

/-! ### A whole transfer (R222) -/

section WholeTransfer

/-- The rest of the message takes exactly `k` TX_CONTINUE commands: each but the last leaves the session
ACTIVE with 7 more bytes sent, the last makes it COMPLETE. -/
def TakesFrames (k : Nat) (s : State) : Prop :=
  (∀ j < k, ∃ t, pump j s = some t ∧ t.tx.state = .active ∧ t.tx.offset.toNat = s.tx.offset.toNat + 7 * j ∧
    t.tx.seq = s.tx.seq + BitVec.ofNat 4 j) ∧
  ∃ t, pump k s = some t ∧ t.tx.state = .complete ∧ t.tx.offset = s.tx.len

theorem pump_succ {k : Nat} (h : exec .txContinue s = .next t) : pump (k + 1) s = pump k t := by
  simp only [pump, h]

/-- The last Consecutive frame (R219 step 10). -/
theorem takesFrames_one (hact : s.tx.state = .active) (hsend : exec .txContinue s = .next (cfSent s))
    (hlast : s.tx.offset.toNat + cfPayloadCount s = s.tx.len.toNat) : TakesFrames 1 s := by
  refine ⟨fun j hj => ?_, cfSent s, pump_succ hsend, if_pos hlast, ?_⟩
  · obtain rfl : j = 0 := by omega
    exact ⟨s, rfl, hact, rfl, (BitVec.add_zero _).symm⟩
  · exact (congrArg toLen hlast).trans (toLen_toNat _)

/-- A Consecutive frame that is not the last carries 7 bytes, and the rest takes one frame less (R219). -/
theorem takesFrames_succ {k : Nat} (hact : s.tx.state = .active)
    (hsend : exec .txContinue s = .next (cfSent s)) (h7 : cfPayloadCount s = 7)
    (h : TakesFrames k (cfSent s)) : TakesFrames (k + 1) s := by
  obtain ⟨hbefore, u, hpump, hdone⟩ := h
  refine ⟨fun j hj => ?_, u, (pump_succ hsend).trans hpump, hdone⟩
  cases j with
  | zero => exact ⟨s, rfl, hact, rfl, (BitVec.add_zero _).symm⟩
  | succ j =>
    obtain ⟨t, ht, htact, hoff, hseq⟩ := hbefore j (by omega)
    have hsent : (cfSent s).tx.offset.toNat = s.tx.offset.toNat + 7 :=
      (toNat_toLen offset_fits).trans (congrArg _ h7)
    refine ⟨t, (pump_succ hsend).trans ht, htact, by omega, ?_⟩
    calc t.tx.seq = s.tx.seq + 1 + BitVec.ofNat 4 j := hseq
      _ = s.tx.seq + BitVec.ofNat 4 (j + 1) := by
        rw [BitVec.add_assoc, Nat.add_comm j, BitVec.ofNat_add]
        rfl

/-- While frames are permitted and accepted a legal transfer sends the next one (R219). -/
theorem exec_txContinue_of_inv (hs : Inv s) (hact : s.tx.state = .active)
    (hts : mayTransmit s.tx.toSend = true) (hans : nextAnswer s = true) :
    exec .txContinue s = .next (cfSent s) := by
  obtain ⟨-, -, htx, -⟩ := hs
  have ⟨_, hmax, _⟩ := htx
  exact exec_txContinue_accepted hact hts (htx.next_le_len.trans hmax) hans

/-- With an unlimited grant and a transport that accepts every frame, the rest of the message takes
ceil((tx.len - tx.offset) / 7) frames. -/
theorem takesFrames {k : Nat} (hs : Inv s) (hact : s.tx.state = .active)
    (hts : s.tx.toSend = .unlimited) (hans : s.answers = List.replicate k true)
    (hk : (s.tx.len.toNat - s.tx.offset.toNat + 6) / 7 = k) : TakesFrames k s := by
  induction k generalizing s with
  | zero =>
    have hlt := offset_lt_len hs hact
    omega
  | succ k ih =>
    have hsend : exec .txContinue s = .next (cfSent s) :=
      exec_txContinue_of_inv hs hact (by rw [hts]; rfl)
        (by simp only [nextAnswer, hans, List.replicate_succ])
    by_cases hlast : s.tx.offset.toNat + cfPayloadCount s = s.tx.len.toNat
    · obtain rfl : k = 0 := framesLeft_eq_zero hk hlast
      exact takesFrames_one hact hsend hlast
    · have h7 : cfPayloadCount s = 7 := by
        have hlt := offset_lt_len hs hact
        unfold cfPayloadCount Config.cfData at hlast ⊢
        omega
      refine takesFrames_succ hact hsend h7 (ih ((exec_effect hsend).inv hs rfl)
        ((if_neg hlast).trans hact) ?_ ?_ (cfSent_framesLeft hk))
      · exact congrArg afterOneFrame hts
      · exact congrArg List.tail hans

end WholeTransfer

end Send

/-! ### The statements -/

/-- Settles O50: by induction on the number of frames left, which each TX_CONTINUE lowers by one. -/
theorem transferTakesExactlyItsFrames : Obligations.TransferTakesExactlyItsFrames :=
  fun _ hs hact hts hans => takesFrames hs hact hts hans rfl

/-- Settles O18: the captured message goes out whole, and the transport's answer decides. -/
theorem shortMessageIsOneSingleFrame : Obligations.ShortMessageIsOneSingleFrame := by
  intro s a d len h7 hlen hmax hwf
  have hexec := exec_txBegin_single_eq (a := a) h7 hlen hmax hwf
  refine ⟨(begun a d len s).msg, get_begun_msg_eq_ite hwf hlen, fun hans => ?_, fun hans => ?_⟩
  all_goals
    rw [hans] at hexec
    exact hexec

/-- Settles O19: the First frame carries the length and the first six bytes of the captured message, if the
length fits. -/
theorem longMessageStartsWithAFirstFrame : Obligations.LongMessageStartsWithAFirstFrame := by
  intro s a d len h8 hlen hmax h16 hwf
  have hexec (h12 : len ≤ 4095) := exec_txBegin_multi_eq (a := a) h8 h12 hlen hmax hwf
  refine ⟨(begun a d len s).msg, get_begun_msg_eq_ite hwf hlen, fun h12 hans => ?_, fun h12 hans => ?_,
    fun h12 => exec_txBegin_tooLong h12 hmax h16⟩
  all_goals
    have hexec := hexec h12
    rw [hans] at hexec
    exact hexec

/-- Settles O21: the check of size and type comes before the status is read. -/
theorem malformedFlowControlIsRejected : Obligations.MalformedFlowControlIsRejected := by
  intro s a hact t
  constructor
  · exact fun f h => txFcEnter_start_malformed hact (h.imp_right decType_ne_three)
  · intro bs st tl n hlen
    have hreject {fs : Nibble} {k : State → Answer} :
        txFcEnter (frameFc fs bs st tl n) (start s) k = .next t :=
      txFcEnter_start_malformed hact (.inl hlen)
    exact ⟨hreject, hreject, hreject, hreject, fun _ => hreject, fun _ => hreject⟩

/-- Settles O22: the frame passes the validation, and its status selects Continue. -/
theorem continueSetsThePermittedCount : Obligations.ContinueSetsThePermittedCount :=
  fun _ _ bs st tl _ hact hlen hmin =>
    (exec_txFc_frameFc 0 bs st tl hact hlen hmin txFcDispatch_continue).trans
      (txFcContinue_start (hmin.trans hlen))

/-- Settles O26: each delivered frame passes the validation to the handler of its status. -/
theorem deliveredFlowControlDrivesTheTransfer : Obligations.DeliveredFlowControlDrivesTheTransfer := by
  intro s a bs st tl n hact hlen hmin good bad
  have hpass (fs : Nibble) {k : State → Answer} :
      txFcEnter (frameFc fs bs st tl n) (start s) k = k (start s) :=
    txFcEnter_start_pass fs bs st tl hact hlen hmin
  have hreserved (fs : Nibble) : txFcEnter (frameFc fs bs st tl n) (start s) txFcOtherStatus = .next bad :=
    (hpass fs).trans txFcOtherStatus_start
  exact ⟨(hpass 0).trans (txFcContinue_start (hmin.trans hlen)), (hpass 1).trans txFcWait_start,
    (hpass 2).trans txFcOverflow_start, hreserved 3, fun ss => hreserved (nibble4to7 ss),
    fun ss => hreserved (nibble8to15 ss)⟩

/-- Settles O28: the next bytes fit the message, so one frame of them is handed over. -/
theorem continueSendsOneConsecutiveFrame : Obligations.ContinueSendsOneConsecutiveFrame := by
  intro s hact hts hoff hlen n u
  have hmax : s.tx.offset.toNat + cfPayloadCount s ≤ s.par.maxMsg := by
    have hcount : cfPayloadCount s ≤ s.tx.len.toNat - s.tx.offset.toNat := Nat.min_le_right _ _
    omega
  have hexec := exec_txContinue_sends hact (mayTransmit_of_ne hts) hmax
  rw [afterOneFrame_eq_oneFewer hts] at hexec
  constructor
  all_goals
    intro hans
    rw [hans] at hexec
    exact hexec

/-- Settles O40: TX_BEGIN, or a transition out of ACTIVE; no other effect changes `tx.state`. -/
theorem sendTransitionsAreThoseOfTheTable : Obligations.SendTransitionsAreThoseOfTheTable := by
  intro s t i h hne
  cases exec_effect h with
  | output | opened => exact absurd rfl hne
  | rx _ _ h => exact absurd (congrArg TxSession.state h.tx_eq) hne
  | tx _ _ h =>
    exact .inr ((h.transition hne).imp_right fun ⟨hact, hfailed, hi⟩ => ⟨hact, hfailed, hi.symm⟩)
  | begin a d len hi _ h => exact .inl ⟨a, d, len, hi, h.transition⟩

/-- Settles O42: the notification of each effect. -/
theorem senderIsNotifiedExactlyWhenTerminal : Obligations.SenderIsNotifiedExactlyWhenTerminal :=
  fun _ _ _ a ok h => (exec_effect h).notifiesSender a ok

/-- Settles O20: the validation checks for an active transfer before it looks at the frame. -/
theorem flowControlWithoutATransferIsIgnored : Obligations.FlowControlWithoutATransferIsIgnored := by
  intro s a hidle t
  have hignore {f : Frame} {k : State → Answer} : txFcEnter f (start s) k = .next t :=
    txFcEnter_start_inactive hidle
  exact ⟨fun _ => hignore, fun _ _ _ _ =>
    ⟨hignore, hignore, hignore, hignore, fun _ => hignore, fun _ => hignore⟩⟩

/-- Settles O23: the frame passes the validation, and its status selects Wait. -/
theorem waitPausesTheTransfer : Obligations.WaitPausesTheTransfer :=
  fun _ _ bs st tl _ hact hlen hmin =>
    (exec_txFc_frameFc 1 bs st tl hact hlen hmin txFcDispatch_wait).trans txFcWait_start

/-- Settles O24: the frame passes the validation, and its status selects Overflow. -/
theorem overflowFailsTheTransfer : Obligations.OverflowFailsTheTransfer :=
  fun _ _ bs st tl _ hact hlen hmin =>
    (exec_txFc_frameFc 2 bs st tl hact hlen hmin txFcDispatch_overflow).trans txFcOverflow_start

/-- Settles O25: the frame passes the validation, and every status from 3 on is rejected. -/
theorem unknownStatusIsRejected : Obligations.UnknownStatusIsRejected :=
  fun _ _ fs bs st tl _ hact hlen hmin hfs =>
    (exec_txFc_frameFc fs bs st tl hact hlen hmin fun h => txFcDispatch_other h hfs).trans
      txFcOtherStatus_start

/-- Settles O27: both conditions are checked before anything is done. -/
theorem nothingToSendIsANoOp : Obligations.NothingToSendIsANoOp := fun _ => exec_txContinue_noop

end Sys2Proof.Machine

/-! ## Transport shim (43_shim.md): the frames handed over, the log, the context -/

namespace Sys2Proof.Machine

section Shim

variable {i : Instr} {s t : State} {a : Addr} {f : Frame} {c : Ctx}

/-! ### Frames handed to the transport (R250, R251, R258) -/

section Frames

/-- What R250, R251 and R258 ask of an `Xmit` event; the other events hand no frame over. -/
def Announced (s : State) : Event → Prop
  | .xmit _ bytes len c =>
    bytes.length = len ∧ 1 ≤ len ∧ len ≤ 8 ∧ (s.cfg.pad = true → len = 8) ∧ c = s.cfg.context
  | .alloc _ | .free | .log _ _ | .notifyRxComplete _ | .notifyTxSent _ _ => True

/-- `Xmit` of a whole `FRAME` with 1 to 8 used bytes. -/
theorem announced_xmitEvent {F : List Byte} {n : Nat} (hF : F.length = 8) (h1 : 1 ≤ n) (h8 : n ≤ 8) :
    Announced s (xmitEvent a F n s) := by
  have hle : xmitLen s n ≤ 8 := xmitLen_le h8
  refine ⟨?_, h1.trans (le_xmitLen h8), hle, fun hpad => if_pos hpad, rfl⟩
  rw [List.length_take, hF, min_eq_left hle]

theorem announced_of_mem_logEvents {o : OutcomeName} : ∀ e ∈ logEvents s o, Announced s e := by
  unfold logEvents
  split <;> simp [Announced]

/-- The only frame the Receive Session sends is its grant. -/
theorem RxEffect.announced (h : RxEffect i s t) : ∀ e ∈ t.out.events, Announced s e := by
  have hgrant : Announced s (xmitEvent s.rx.replyAddr grantFrame 3 s) :=
    announced_xmitEvent (by rw [grantFrame_eq]; rfl) (by omega) (by omega)
  cases h with
  | refused | short => simpa [Announced] using announced_of_mem_logEvents
  | accepted => simpa [Announced] using hgrant
  | single | full | more => simp [Announced]

/-- A Consecutive frame has its header byte and at most 7 bytes of payload. -/
theorem TxEffect.announced (h : TxEffect i s t) : ∀ e ∈ t.out.events, Announced s e := by
  have hcf {F : List Byte} (hF : F.length = 8) :
      Announced s (xmitEvent s.tx.addr F (1 + cfPayloadCount s) s) :=
    announced_xmitEvent hF (by omega) (by have := cfPayloadCount_le_seven (s := s); omega)
  cases h with
  | granted | overflow => simp [Announced]
  | sent F ts _ _ _ hF =>
    dsimp only
    split <;> simpa [Announced] using hcf hF
  | lost F _ _ _ hF => simpa [Announced] using hcf hF

/-- TX_BEGIN sends a Single frame of at most 7 bytes of payload, or a First frame, which is full. -/
theorem BeginEffect.announced {d : List Byte} {len : Nat} (h : BeginEffect a d len s t) :
    ∀ e ∈ t.out.events, Announced s e := by
  cases h with
  | single F h7 hF => simpa [Announced] using announced_xmitEvent hF (n := 1 + len) (by omega) (by omega)
  | multi F _ _ hF => simpa using announced_xmitEvent hF (n := 8) (by omega) (by omega)
  | lost F n hF h1 h8 => simpa [Announced] using announced_xmitEvent hF h1 h8
  | tooLong => simp [Announced]

theorem Effect.announced (h : Effect i s t) : ∀ e ∈ t.out.events, Announced s e := by
  cases h with
  | output o =>
    dsimp only
    split
    · exact announced_of_mem_logEvents
    · exact fun e he => absurd he List.not_mem_nil
  | opened =>
    dsimp only
    split <;> simp [Announced]
  | rx _ _ h => exact h.announced
  | tx _ _ h => exact h.announced
  | begin _ _ _ _ _ h => exact h.announced

end Frames

/-! ### Log events (R254, R270) -/

section Log

variable {o : OutcomeName}

/-- The column `logged` of R271, as the list of the outcomes it marks. -/
theorem logged_iff_mem : o.logged = true ↔
    o ∈ [OutcomeName.rxRejTooLong, .rxRejAlloc, .rxFailReassembly, .txFcRejFormat, .txFcRejStatus] := by
  cases o <;> decide

theorem log_mem_logEvents {o' : OutcomeName} :
    .log o c ∈ logEvents s o' ↔ s.cfg.logEn = true ∧ o' = o ∧ c = s.cfg.context := by
  unfold logEvents
  split <;> simp [*, eq_comm]

/-- The `Log` events of a step are those of its own outcome, which is marked as logged. -/
def LogsItsOutcome (s t : State) : Prop := ∀ (o : OutcomeName) (c : Ctx),
  .log o c ∈ t.out.events ↔
    s.cfg.logEn = true ∧ t.out.outcome = o ∧ c = s.cfg.context ∧ o.logged = true

/-- A step that logs nothing and whose outcome is not logged. -/
theorem logsItsOutcome_of_silent (hev : ∀ o c, .log o c ∉ t.out.events)
    (ho : t.out.outcome.logged = false) : LogsItsOutcome s t := by
  refine fun o c => ⟨fun h => absurd h (hev o c), ?_⟩
  rintro ⟨_, rfl, _, hlogged⟩
  simp [ho] at hlogged

/-- A step that logs its outcome, which is a logged one. -/
theorem logsItsOutcome_of_logged (ho : t.out.outcome.logged = true)
    (hev : ∀ o c, .log o c ∈ t.out.events ↔ .log o c ∈ logEvents s t.out.outcome) :
    LogsItsOutcome s t := by
  refine fun o c => (hev o c).trans (log_mem_logEvents.trans ?_)
  exact ⟨fun ⟨hen, heq, hc⟩ => ⟨hen, heq, hc, heq ▸ ho⟩, fun ⟨hen, heq, hc, _⟩ => ⟨hen, heq, hc⟩⟩

theorem RxEffect.logsItsOutcome (h : RxEffect i s t) : LogsItsOutcome s t := by
  cases h with
  | refused | short => exact logsItsOutcome_of_logged rfl (by simp)
  | single | accepted | full | more => exact logsItsOutcome_of_silent (by simp [xmitEvent]) rfl

theorem TxEffect.logsItsOutcome (h : TxEffect i s t) : LogsItsOutcome s t := by
  cases h with
  | granted | overflow | lost => exact logsItsOutcome_of_silent (by simp [xmitEvent]) rfl
  | sent =>
    refine logsItsOutcome_of_silent ?_ rfl
    dsimp only
    split <;> simp [xmitEvent]

theorem BeginEffect.logsItsOutcome {d : List Byte} {len : Nat} (h : BeginEffect a d len s t) :
    LogsItsOutcome s t := by
  cases h <;> exact logsItsOutcome_of_silent (by simp [xmitEvent]) rfl

theorem Effect.logsItsOutcome (h : Effect i s t) : LogsItsOutcome s t := by
  cases h with
  | output o =>
    cases ho : o.logged with
    | false => exact logsItsOutcome_of_silent (by simp) ho
    | true => exact logsItsOutcome_of_logged ho (by simp)
  | opened =>
    refine logsItsOutcome_of_silent ?_ rfl
    dsimp only
    split <;> simp
  | rx _ _ h => exact h.logsItsOutcome
  | tx _ _ h => exact h.logsItsOutcome
  | begin _ _ _ _ _ h => exact h.logsItsOutcome

end Log

/-! ### The context (R258): every operation commutes with replacing it -/

section Context

/-- The answer with context `c` in its next state; the reason of a stop carries none. -/
def answerWithContext (c : Ctx) : Answer → Answer
  | .next t => .next (t.withContext c)
  | .fault r => .fault r
  | .refused r => .refused r

/-- A meaning does the same with context `c`. -/
def PassesContext (c : Ctx) (k : State → Answer) : Prop :=
  ∀ s, k (s.withContext c) = answerWithContext c (k s)

/-! A write to a session, on either side of the replacement. -/

theorem withContext_rx_update (x : RxSession) :
    { s.withContext c with rx := x } = { s with rx := x }.withContext c := rfl

theorem withContext_tx_update (x : TxSession) :
    { s.withContext c with tx := x } = { s with tx := x }.withContext c := rfl

/-- A case distinction on a condition that the context does not change. -/
theorem ite_eq_map_ite {α : Type} {p q : Prop} [Decidable p] [Decidable q] {x x' y y' : α} (g : α → α)
    (h : p ↔ q) (hx : x' = g x) (hy : y' = g y) : (if p then x' else y') = g (if q then x else y) :=
  (if_congr h hx hy).trans (apply_ite g q x y).symm

/-! The Receive Session. -/

theorem rxIgnore_passes {o : OutcomeName} : PassesContext c (rxIgnore o a) :=
  fun _ => congrArg Host.Outcome.next (raise_withContext _ _)

theorem rxEnter_passes {k : State → Answer} (h : PassesContext c k) :
    PassesContext c (rxEnter a f · k) := by
  intro s
  refine ite_eq_map_ite _ .rfl (rxIgnore_passes s) ?_
  refine ite_eq_map_ite _ .rfl (rxIgnore_passes s) ?_
  exact ite_eq_map_ite _ .rfl (rxIgnore_passes s) (h s)

theorem rxSingle_passes : PassesContext c (rxSingle a f) := by
  intro s
  refine ite_eq_map_ite _ .rfl (rxIgnore_passes s) ?_
  split
  · exact rxIgnore_passes s
  · refine ite_eq_map_ite _ .rfl (rxIgnore_passes s) ?_
    simp only [withContext_rx_update, notifyRxComplete_withContext, done_withContext]
    rfl

theorem rxAcceptFirst_withContext (total k : Nat) :
    rxAcceptFirst a f total k (s.withContext c) = (rxAcceptFirst a f total k s).withContext c := by
  simp only [rxAcceptFirst, withContext_rx, withContext_rx_update, xmit_withContext, done_withContext]

theorem rxFirst_passes : PassesContext c (rxFirst a f) := by
  intro s
  simp only [rxFirst, withContext_rx, withContext_par, withContext_asked, nextAnswer_withContext,
    alloc_withContext, rxAcceptFirst_withContext, raise_withContext]
  split
  · exact rxIgnore_passes s
  split
  · exact rxIgnore_passes s
  split
  · rfl
  split <;> rfl

theorem rxFull_withContext {b : List Byte} :
    rxFull a (s.withContext c) b = (rxFull a s b).withContext c := by
  simp only [rxFull, withContext_rx, withContext_rx_update, free_withContext, notifyRxComplete_withContext,
    done_withContext]

theorem rxShort_withContext : rxShort a (s.withContext c) = (rxShort a s).withContext c := by
  simp only [rxShort, withContext_rx, withContext_rx_update, free_withContext, raise_withContext]

theorem rxConsecutive_passes : PassesContext c (rxConsecutive a f) := by
  intro s
  refine ite_eq_map_ite _ .rfl (rxIgnore_passes s) ?_
  rw [withContext_rx]
  split
  · rfl
  · refine ite_eq_map_ite _ .rfl rfl (congrArg Host.Outcome.next ?_)
    simp only [withContext_rx_update, rxFull_withContext, rxShort_withContext, done_withContext]
    exact ite_eq_map_ite _ .rfl rfl (ite_eq_map_ite _ .rfl rfl rfl)

theorem rxDispatch_passes : PassesContext c (rxDispatch a f) := by
  intro s
  unfold rxDispatch
  split
  · exact rxSingle_passes s
  · exact rxFirst_passes s
  · exact rxConsecutive_passes s
  · exact rxIgnore_passes s

theorem execRxOpen_passes (r : Addr) : PassesContext c (execRxOpen a r) := by
  intro s
  have hlive : rxBufLive (s.withContext c) = rxBufLive s := rfl
  simp only [execRxOpen_eq, hlive]
  cases rxBufLive s <;> rfl

/-! The Send Session. -/

theorem txFail_withContext (o : OutcomeName) (r : Result) :
    txFail o r (s.withContext c) = (txFail o r s).withContext c := by
  simp only [txFail, withContext_tx, withContext_tx_update, notifyTxSent_withContext, raise_withContext]

theorem txCapture_withContext (d : List Byte) (len : Nat) :
    txCapture a d len (s.withContext c) = (txCapture a d len s).withContext c := rfl

theorem txSingle_withContext : txSingle (s.withContext c) = (txSingle s).withContext c := by
  have hbytes : singleFrameBytes (s.withContext c) = singleFrameBytes s := rfl
  simp only [txSingle, hbytes, withContext_tx, nextAnswer_withContext, xmit_withContext, txFail_withContext,
    withContext_tx_update, notifyTxSent_withContext, done_withContext]
  split
  · rfl
  split <;> rfl

theorem txMulti_withContext : txMulti (s.withContext c) = (txMulti s).withContext c := by
  have hbytes : firstFrameBytes (s.withContext c) = firstFrameBytes s := rfl
  simp only [txMulti, hbytes, withContext_tx, nextAnswer_withContext, xmit_withContext, txFail_withContext,
    withContext_tx_update, done_withContext]
  split
  · rfl
  split <;> rfl

theorem execTxBegin_passes (d : List Byte) (len : Nat) : PassesContext c (execTxBegin a d len) := by
  intro s
  simp only [execTxBegin, withContext_par, start_withContext, txCapture_withContext, txSingle_withContext,
    txMulti_withContext]
  split
  · rfl
  split <;> rfl

theorem txFcEnter_passes {k : State → Answer} (h : PassesContext c k) :
    PassesContext c (txFcEnter f · k) := by
  intro s
  simp only [txFcEnter, withContext_tx, withContext_par, raise_withContext]
  split
  · rfl
  split
  · rfl
  · exact h s

theorem txFcContinue_passes : PassesContext c (txFcContinue f) := by
  intro s
  simp only [txFcContinue, raise_withContext]
  split <;> rfl

theorem txFcWait_passes : PassesContext c txFcWait := fun _ => rfl

theorem txFcOverflow_passes : PassesContext c txFcOverflow :=
  fun _ => congrArg Host.Outcome.next (txFail_withContext _ _)

theorem txFcOtherStatus_passes : PassesContext c txFcOtherStatus :=
  fun _ => congrArg Host.Outcome.next (raise_withContext _ _)

theorem txFcDispatch_passes : PassesContext c (txFcDispatch f) := by
  intro s
  unfold txFcDispatch
  split
  · exact txFcContinue_passes s
  · exact txFcWait_passes s
  · exact txFcOverflow_passes s
  · exact txFcOtherStatus_passes s

theorem txCompleteIfLast_withContext :
    txCompleteIfLast (s.withContext c) = (txCompleteIfLast s).withContext c := by
  simp only [txCompleteIfLast, withContext_tx, withContext_tx_update, notifyTxSent_withContext]
  split <;> rfl

theorem txAdvance_withContext (n : Nat) :
    txAdvance n (s.withContext c) = (txAdvance n s).withContext c := rfl

theorem txPump_withContext : txPump (s.withContext c) = (txPump s).withContext c := by
  have hbytes : nextCfBytes (s.withContext c) = nextCfBytes s := rfl
  have hcount : cfPayloadCount (s.withContext c) = cfPayloadCount s := rfl
  simp only [txPump, hbytes, hcount, withContext_tx, nextAnswer_withContext, xmit_withContext,
    txAdvance_withContext, txCompleteIfLast_withContext, txFail_withContext, done_withContext]
  split
  · rfl
  split <;> rfl

theorem execTxContinue_passes : PassesContext c execTxContinue := by
  intro s
  have hcount : cfPayloadCount ((start s).withContext c) = cfPayloadCount (start s) := rfl
  simp only [execTxContinue, start_withContext, hcount, withContext_tx, withContext_par, done_withContext,
    txPump_withContext]
  split
  · rfl
  split
  · rfl
  split <;> rfl

/-! Every instruction: its handler on the state the step begins with, or the pure answer of the codec. -/

theorem PassesContext.start {k : State → Answer} (h : PassesContext c k) :
    PassesContext c (fun s => k (start s)) :=
  fun s => (congrArg k start_withContext).trans (h (Machine.start s))

theorem exec_passes (i : Instr) : PassesContext c (exec i) := by
  cases i with
  | sf => exact (rxEnter_passes rxSingle_passes).start
  | ff => exact (rxEnter_passes rxFirst_passes).start
  | cf => exact (rxEnter_passes rxConsecutive_passes).start
  | rsvdType4to7 | rsvdType8to15 => exact (rxEnter_passes rxIgnore_passes).start
  | rxFrame => exact (rxEnter_passes rxDispatch_passes).start
  | rxOpen => exact execRxOpen_passes _
  | fcCts => exact (txFcEnter_passes txFcContinue_passes).start
  | fcWait => exact (txFcEnter_passes txFcWait_passes).start
  | fcOvflw => exact (txFcEnter_passes txFcOverflow_passes).start
  | fcRsvd3 | fcRsvd4to7 | fcRsvd8to15 => exact (txFcEnter_passes txFcOtherStatus_passes).start
  | txFc => exact (txFcEnter_passes txFcDispatch_passes).start
  | txBegin => exact execTxBegin_passes _ _
  | txContinue => exact execTxContinue_passes
  | decType | decSfDl | decFfDl | decCfSn | decFcFs | decFcBs | decFcSt => exact fun _ => rfl
  | encSf | encFf | encCf | encFc => exact fun _ => rfl

end Context

end Shim

/-! ### The statements -/

/-- Settles O44: each effect logs its own outcome or nothing, and the outcomes that log are the marked ones. -/
theorem logEventsAreExactlyTheLoggedOutcomes : Obligations.LogEventsAreExactlyTheLoggedOutcomes := by
  intro s t i o c h
  rw [← logged_iff_mem]
  exact (exec_effect h).logsItsOutcome o c

/-- Settles O45: every frame handed over is a whole `FRAME` with 1 to 8 used bytes. -/
theorem transmittedFramesHaveTheirAnnouncedLength : Obligations.TransmittedFramesHaveTheirAnnouncedLength :=
  fun _ _ _ _ _ _ _ h hmem => (exec_effect h).announced _ hmem

/-- Settles O53: the events carry the configured context, and every meaning commutes with replacing it. -/
theorem contextIsPassedThroughUnread : Obligations.ContextIsPassedThroughUnread := by
  intro s t i h
  refine ⟨fun a bytes len c hmem => ?_, fun o c hmem => ?_, fun c => ?_⟩
  · obtain ⟨_, _, _, _, hc⟩ := (exec_effect h).announced _ hmem
    exact hc
  · obtain ⟨_, _, hc, _⟩ := ((exec_effect h).logsItsOutcome o c).mp hmem
    exact hc
  · rw [exec_passes i s, h]
    rfl

end Sys2Proof.Machine

/-! ## Exceptions and reporting (60_exceptions.md): one completion notification per step -/

namespace Sys2Proof.Machine

section NotificationCount

variable {i : Instr} {s t : State} {a : Addr}

/-! ### What each event adds to the count (R283) -/

@[simp] theorem notifications_nil : notifications [] = 0 := rfl

@[simp] theorem notifications_xmitEvent_cons {F : List Byte} {n : Nat} {es : List Event} :
    notifications (xmitEvent a F n s :: es) = notifications es := rfl

@[simp] theorem notifications_alloc_cons {n : Nat} {es : List Event} :
    notifications (.alloc n :: es) = notifications es := rfl

@[simp] theorem notifications_free_cons {es : List Event} :
    notifications (.free :: es) = notifications es := rfl

@[simp] theorem notifications_notifyRxComplete_cons {m : Message} {es : List Event} :
    notifications (.notifyRxComplete m :: es) = notifications es + 1 := rfl

@[simp] theorem notifications_notifyTxSent_cons {ok : Bool} {es : List Event} :
    notifications (.notifyTxSent a ok :: es) = notifications es + 1 := rfl

/-- Logging notifies nobody, whether `cfg.log_en` is set or not (R254). -/
@[simp] theorem notifications_logEvents {o : OutcomeName} : notifications (logEvents s o) = 0 := by
  unfold logEvents
  split <;> rfl

/-! ### What each effect emits -/

/-- The Receive Session notifies once when it completes (R174, R176) and otherwise not at all. -/
theorem RxEffect.notifications_le_one (h : RxEffect i s t) : notifications t.out.events ≤ 1 := by
  cases h with
  | single | full => simp
  | refused | accepted | short | more => simp

/-- The Send Session notifies once when the transfer ends (R216, R219); a Consecutive frame ends it
exactly if it is the last. -/
theorem TxEffect.notifications_le_one (h : TxEffect i s t) : notifications t.out.events ≤ 1 := by
  cases h with
  | granted => simp
  | overflow | lost => simp
  | sent =>
    dsimp only
    split <;> simp

/-- TX_BEGIN notifies once, unless it leaves the transfer active (R210, R211). -/
theorem BeginEffect.notifications_le_one {d : List Byte} {len : Nat} (h : BeginEffect a d len s t) :
    notifications t.out.events ≤ 1 := by
  cases h with
  | multi => simp
  | single | lost | tooLong => simp

theorem Effect.notifications_le_one (h : Effect i s t) : notifications t.out.events ≤ 1 := by
  cases h with
  | output =>
    dsimp only
    split <;> simp
  | opened =>
    dsimp only
    split <;> simp
  | rx _ _ h => exact h.notifications_le_one
  | tx _ _ h => exact h.notifications_le_one
  | begin _ _ _ _ _ h => exact h.notifications_le_one

end NotificationCount

/-! ### The statement -/

/-- Settles O41: an instruction runs one session, and no effect of that session notifies twice. -/
theorem atMostOneNotificationPerStep : Obligations.AtMostOneNotificationPerStep :=
  fun _ _ _ h => (exec_effect h).notifications_le_one

end Sys2Proof.Machine

/-! ## Reset (70_reset_and_hazards.md R310) -/

namespace Sys2Proof.Machine

section HardwareReset

variable {s : State} {rest : List Request}

/-- A reset at the head of the inbox is taken off it and carried out, whatever the sessions are doing. -/
theorem step_reset (h : s.inbox = .reset :: rest) :
    step s = .next (hardReset { s with inbox := rest }) := by
  rw [← taken_eq h]
  simp only [step, h]

end HardwareReset

/-- Settles O3: the step is `hardReset`, whose sessions and configuration are those of `State.resetWith`, as
in O2, whose output is blank, and which keeps the parameters and the further requests. -/
theorem hardwareResetForgetsEverythingSilently :
    Obligations.HardwareResetForgetsEverythingSilently := fun _ _ h =>
  ⟨_, step_reset h, rfl, rfl, rfl, rfl, rfl, rfl, rfl, rfl, rfl, rfl, rfl, rfl, rfl, rfl, rfl, rfl, rfl,
    rfl⟩

end Sys2Proof.Machine
